-- ==== Sys2Proof/Word.lean ====
section
/-!
DEFINITION. The word types of the MZI core (spec/00_scope.md R7, R14).
-/

namespace Sys2Proof

/-- The container of a `W`-bit register.  R7 bounds `W` by 256, so 256 bits hold every register of
every build; that a register's value stays below `2 ^ W` is an invariant (`Safety.lean`). -/
abbrev Word := BitVec 256

/-- A byte of the buffers `H` and `SIG` (R44, R46), and of `GCPAR` (R38). -/
abbrev Byte := BitVec 8

/-- The data of one bus access, and one limb of a `W`-bit register (R74, R76). -/
abbrev BusWord := BitVec 32

end Sys2Proof
end

