-- ==== Sys2Proof/Syntax.lean ====
section
/-!
DEFINITION. The command set: one constructor per row of spec/opcode_table.json
(spec/30_encoding.md R102, R103).
-/

namespace Sys2Proof

/-- The modulus-select bit `m` of formats F3 and F2 (R104): `p` for `m = 0`, `n` for `m = 1`. -/
inductive ModSel where
  | p
  | n
  deriving DecidableEq, Repr

/-- A command.  A scalar index is one of `S[0..7]` and a point destination one of `PT[0..3]` by its
type; a point source keeps its 4-bit field, of which R105 admits `0..4`, and `WellFormed` says so. -/
inductive Instr where
  /-- `init` (R131). -/
  | init
  /-- `zeroize` (R133). -/
  | zeroize
  /-- `modadd.{p,n} sd, sa, sb` (R144). -/
  | modadd (rd ra rb : Fin 8) (m : ModSel)
  /-- `modsub.{p,n} sd, sa, sb` (R145). -/
  | modsub (rd ra rb : Fin 8) (m : ModSel)
  /-- `modmul.{p,n} sd, sa, sb` (R146). -/
  | modmul (rd ra rb : Fin 8) (m : ModSel)
  /-- `mmul.{p,n} sd, sa, sb` (R147). -/
  | mmul (rd ra rb : Fin 8) (m : ModSel)
  /-- `modred.{p,n} sd, sa` (R148). -/
  | modred (rd ra : Fin 8) (m : ModSel)
  /-- `modexp.{p,n} sd, sa, sb` (R149). -/
  | modexp (rd ra rb : Fin 8) (m : ModSel)
  /-- `modinv.{p,n} sd, sa` (R150). -/
  | modinv (rd ra : Fin 8) (m : ModSel)
  /-- `legendre.{p,n} sd, sa` (R151). -/
  | legendre (rd ra : Fin 8) (m : ModSel)
  /-- `modsqrt.{p,n} sd, sa` (R166). -/
  | modsqrt (rd ra : Fin 8) (m : ModSel)
  /-- `pdecomp ptd, sa, par` (R172). -/
  | pdecomp (rd : Fin 4) (ra : Fin 8) (par : Byte)
  /-- `padd ptd, pa, pb` (R175). -/
  | padd (rd : Fin 4) (ra rb : BitVec 4)
  /-- `pdbl ptd, pa` (R177). -/
  | pdbl (rd : Fin 4) (ra : BitVec 4)
  /-- `psmul ptd, pa, sb` (R179). -/
  | psmul (rd : Fin 4) (ra : BitVec 4) (rb : Fin 8)
  /-- `keygen bits` (R190). -/
  | keygen (bits : BitVec 12)
  /-- `pubkey ptd` (R194). -/
  | pubkey (rd : Fin 4)
  /-- `sign` (R196). -/
  | sign
  /-- `verify pa` (R200). -/
  | verify (ra : BitVec 4)
  /-- `sigenc` (R206). -/
  | sigenc
  /-- `sigdec` (R208). -/
  | sigdec
  deriving DecidableEq, Repr

end Sys2Proof
end

