-- ==== Sys2Proof/WellFormed.lean ====
section
/-!
DEFINITION. Which commands are legal as syntax (spec/30_encoding.md R105): the `constraints` of
spec/opcode_table.json.  Every other bound is in the operand's type.
-/

namespace Sys2Proof

/-- A point source index names `PT[0..3]` or, as 4, the generator (R105, R107). -/
def validPointSource (j : BitVec 4) : Bool := decide (j.toNat ≤ 4)

/-- The command is legal: its point sources are not reserved indices (R105). -/
def Instr.wellFormed : Instr → Bool
  | .padd _ ra rb => validPointSource ra && validPointSource rb
  | .pdbl _ ra => validPointSource ra
  | .psmul _ ra _ => validPointSource ra
  | .verify ra => validPointSource ra
  | .init | .zeroize | .sign | .sigenc | .sigdec => true
  | .modadd _ _ _ _ | .modsub _ _ _ _ | .modmul _ _ _ _ | .mmul _ _ _ _ | .modexp _ _ _ _ => true
  | .modred _ _ _ | .modinv _ _ _ | .legendre _ _ _ | .modsqrt _ _ _ => true
  | .pdecomp _ _ _ | .keygen _ | .pubkey _ => true

end Sys2Proof
end

