-- ==== Sys2Proof/Decode.lean ====
section
/-!
DEFINITION. The command word (spec/30_encoding.md R101 to R106, R109, R110): the decoder, and after
it the encoder.
-/

namespace Sys2Proof

/-- Why a word is no command, with the `info` of `IllegalCommand` (R109 stage 1, R220). -/
inductive DecodeError where
  /-- `op` is not in R103: `info = 0`. -/
  | unknownOpcode
  /-- A bit the format requires to be zero is set (R106): `info = 1`. -/
  | mustBeZeroBit
  /-- A register index the format uses is reserved (R105): `info = 2`. -/
  | reservedIndex
  deriving DecidableEq, Repr

def DecodeError.info : DecodeError → Byte
  | .unknownOpcode => 0
  | .mustBeZeroBit => 1
  | .reservedIndex => 2

/-- The formats of R102. -/
inductive Format where
  | z | f3 | f2 | pd | p3 | p2 | ps | k | pk | v
  deriving DecidableEq, Repr

/-- The mnemonics of R103. -/
inductive Mnemonic where
  | init | zeroize
  | modadd | modsub | modmul | mmul | modred | modexp | modinv | legendre | modsqrt
  | pdecomp | padd | pdbl | psmul
  | keygen | pubkey | sign | verify | sigenc | sigdec
  deriving DecidableEq, Repr

/-- The column `op` of R103. -/
def Mnemonic.code : Mnemonic → Byte
  | .init => 0x01
  | .zeroize => 0x02
  | .modadd => 0x10
  | .modsub => 0x11
  | .modmul => 0x12
  | .mmul => 0x13
  | .modred => 0x14
  | .modexp => 0x15
  | .modinv => 0x16
  | .legendre => 0x17
  | .modsqrt => 0x18
  | .pdecomp => 0x20
  | .padd => 0x21
  | .pdbl => 0x22
  | .psmul => 0x23
  | .keygen => 0x30
  | .pubkey => 0x31
  | .sign => 0x32
  | .verify => 0x33
  | .sigenc => 0x34
  | .sigdec => 0x35

/-- The column `format` of R103. -/
def Mnemonic.format : Mnemonic → Format
  | .init | .zeroize | .sign | .sigenc | .sigdec => .z
  | .modadd | .modsub | .modmul | .mmul | .modexp => .f3
  | .modred | .modinv | .legendre | .modsqrt => .f2
  | .pdecomp => .pd
  | .padd => .p3
  | .pdbl => .p2
  | .psmul => .ps
  | .keygen => .k
  | .pubkey => .pk
  | .verify => .v

/-- The mnemonics in R103's order. -/
def Mnemonic.all : List Mnemonic :=
  [.init, .zeroize, .modadd, .modsub, .modmul, .mmul, .modred, .modexp, .modinv, .legendre, .modsqrt,
   .pdecomp, .padd, .pdbl, .psmul, .keygen, .pubkey, .sign, .verify, .sigenc, .sigdec]

/-- The mnemonic an opcode stands for; every other value of `op` is illegal (R110). -/
def mnemonicOf (op : Byte) : Option Mnemonic := Mnemonic.all.find? fun k => k.code == op

/-- The bits a format requires to be zero: the fields and parts of `imm12` it does not use
(R102, R104, R106). -/
def Format.mustBeZero : Format → BusWord
  | .z => 0xFFFFFF00
  | .f3 => 0xFFE00000
  | .f2 => 0xFFEF0000
  | .pd => 0xF00F0000
  | .p3 => 0xFFF00000
  | .p2 => 0xFFFF0000
  | .ps => 0xFFF00000
  | .k => 0x000FFF00
  | .pk => 0xFFFFF000
  | .v => 0xFFFF0F00

/-- Field `op`, bits 7:0 (R101). -/
def fieldOp (w : BusWord) : Byte := w.extractLsb' 0 8
/-- Field `rd`, bits 11:8. -/
def fieldRd (w : BusWord) : BitVec 4 := w.extractLsb' 8 4
/-- Field `ra`, bits 15:12. -/
def fieldRa (w : BusWord) : BitVec 4 := w.extractLsb' 12 4
/-- Field `rb`, bits 19:16. -/
def fieldRb (w : BusWord) : BitVec 4 := w.extractLsb' 16 4
/-- Field `imm12`, bits 31:20. -/
def fieldImm (w : BusWord) : BitVec 12 := w.extractLsb' 20 12

/-- `0..7` name `S[index]`; `8..15` are reserved (R105). -/
def validScalar (j : BitVec 4) : Bool := decide (j.toNat < 8)
/-- `0..3` name `PT[index]`; `4..15` are reserved as a destination (R105). -/
def validPointDest (j : BitVec 4) : Bool := decide (j.toNat < 4)

/-- Every register index the format uses is one R105 gives a register. -/
def Format.indicesValid (f : Format) (w : BusWord) : Bool :=
  match f with
  | .z | .k => true
  | .f3 => validScalar (fieldRd w) && validScalar (fieldRa w) && validScalar (fieldRb w)
  | .f2 => validScalar (fieldRd w) && validScalar (fieldRa w)
  | .pd => validPointDest (fieldRd w) && validScalar (fieldRa w)
  | .p3 => validPointDest (fieldRd w) && validPointSource (fieldRa w) && validPointSource (fieldRb w)
  | .p2 => validPointDest (fieldRd w) && validPointSource (fieldRa w)
  | .ps => validPointDest (fieldRd w) && validPointSource (fieldRa w) && validScalar (fieldRb w)
  | .pk => validPointDest (fieldRd w)
  | .v => validPointSource (fieldRa w)

/-- The scalar register a valid field names: its low three bits. -/
def scalarIndex (j : BitVec 4) : Fin 8 := (j.setWidth 3).toFin
/-- The point register a valid destination field names: its low two bits. -/
def pointIndex (j : BitVec 4) : Fin 4 := (j.setWidth 2).toFin
/-- `m = imm12[0]` selects the modulus (R104). -/
def modSelOf (imm : BitVec 12) : ModSel := if imm.getLsbD 0 then .n else .p

/-- The command of a word whose stage-1 checks have passed. -/
def assemble (k : Mnemonic) (w : BusWord) : Instr :=
  let sd := scalarIndex (fieldRd w)
  let sa := scalarIndex (fieldRa w)
  let sb := scalarIndex (fieldRb w)
  let ptd := pointIndex (fieldRd w)
  let m := modSelOf (fieldImm w)
  match k with
  | .init => .init
  | .zeroize => .zeroize
  | .modadd => .modadd sd sa sb m
  | .modsub => .modsub sd sa sb m
  | .modmul => .modmul sd sa sb m
  | .mmul => .mmul sd sa sb m
  | .modred => .modred sd sa m
  | .modexp => .modexp sd sa sb m
  | .modinv => .modinv sd sa m
  | .legendre => .legendre sd sa m
  | .modsqrt => .modsqrt sd sa m
  | .pdecomp => .pdecomp ptd sa ((fieldImm w).setWidth 8)
  | .padd => .padd ptd (fieldRa w) (fieldRb w)
  | .pdbl => .pdbl ptd (fieldRa w)
  | .psmul => .psmul ptd (fieldRa w) sb
  | .keygen => .keygen (fieldImm w)
  | .pubkey => .pubkey ptd
  | .sign => .sign
  | .verify => .verify (fieldRa w)
  | .sigenc => .sigenc
  | .sigdec => .sigdec

/-- The decode stage (R109 stage 1): unknown opcode, then must-be-zero bits, then reserved indices;
the first that applies is reported. -/
def decode (w : BusWord) : Except DecodeError Instr :=
  match mnemonicOf (fieldOp w) with
  | none => .error .unknownOpcode
  | some k =>
    if w &&& k.format.mustBeZero ≠ 0 then .error .mustBeZeroBit
    else if k.format.indicesValid w then .ok (assemble k w)
    else .error .reservedIndex

/-- The instruction the decoder reads from a table word.  A command is one 32-bit word, not bytes in
a memory (R100), so the table's numbering is the word's own. -/
def decodeTableWord (nbits w : Nat) : Option Instr :=
  match decode (BitVec.ofNat 32 (w % 2 ^ nbits)) with
  | .ok i => some i
  | .error _ => none

/-- The word `imm12 ‖ rb ‖ ra ‖ rd ‖ op` (R101, R111). -/
def packWord (op : Byte) (rd ra rb : BitVec 4) (imm : BitVec 12) : BusWord :=
  imm ++ rb ++ ra ++ rd ++ op

/-- The 4-bit field of a scalar index. -/
def scalarField (i : Fin 8) : BitVec 4 := BitVec.ofNat 4 i.val
/-- The 4-bit field of a point destination index. -/
def pointField (j : Fin 4) : BitVec 4 := BitVec.ofNat 4 j.val
/-- `imm12` of a command that selects a modulus (R104). -/
def ModSel.imm : ModSel → BitVec 12
  | .p => 0
  | .n => 1

/-- The word of a command (R101 to R104, R111). -/
def encode : Instr → BusWord
  | .init => packWord Mnemonic.init.code 0 0 0 0
  | .zeroize => packWord Mnemonic.zeroize.code 0 0 0 0
  | .modadd rd ra rb m => packWord Mnemonic.modadd.code (scalarField rd) (scalarField ra) (scalarField rb) m.imm
  | .modsub rd ra rb m => packWord Mnemonic.modsub.code (scalarField rd) (scalarField ra) (scalarField rb) m.imm
  | .modmul rd ra rb m => packWord Mnemonic.modmul.code (scalarField rd) (scalarField ra) (scalarField rb) m.imm
  | .mmul rd ra rb m => packWord Mnemonic.mmul.code (scalarField rd) (scalarField ra) (scalarField rb) m.imm
  | .modred rd ra m => packWord Mnemonic.modred.code (scalarField rd) (scalarField ra) 0 m.imm
  | .modexp rd ra rb m => packWord Mnemonic.modexp.code (scalarField rd) (scalarField ra) (scalarField rb) m.imm
  | .modinv rd ra m => packWord Mnemonic.modinv.code (scalarField rd) (scalarField ra) 0 m.imm
  | .legendre rd ra m => packWord Mnemonic.legendre.code (scalarField rd) (scalarField ra) 0 m.imm
  | .modsqrt rd ra m => packWord Mnemonic.modsqrt.code (scalarField rd) (scalarField ra) 0 m.imm
  | .pdecomp rd ra par => packWord Mnemonic.pdecomp.code (pointField rd) (scalarField ra) 0 (par.setWidth 12)
  | .padd rd ra rb => packWord Mnemonic.padd.code (pointField rd) ra rb 0
  | .pdbl rd ra => packWord Mnemonic.pdbl.code (pointField rd) ra 0 0
  | .psmul rd ra rb => packWord Mnemonic.psmul.code (pointField rd) ra (scalarField rb) 0
  | .keygen bits => packWord Mnemonic.keygen.code 0 0 0 bits
  | .pubkey rd => packWord Mnemonic.pubkey.code (pointField rd) 0 0 0
  | .sign => packWord Mnemonic.sign.code 0 0 0 0
  | .verify ra => packWord Mnemonic.verify.code 0 ra 0 0
  | .sigenc => packWord Mnemonic.sigenc.code 0 0 0 0
  | .sigdec => packWord Mnemonic.sigdec.code 0 0 0 0

/-- The mnemonic of a command. -/
def Instr.mnemonic : Instr → Mnemonic
  | .init => .init
  | .zeroize => .zeroize
  | .modadd _ _ _ _ => .modadd
  | .modsub _ _ _ _ => .modsub
  | .modmul _ _ _ _ => .modmul
  | .mmul _ _ _ _ => .mmul
  | .modred _ _ _ => .modred
  | .modexp _ _ _ _ => .modexp
  | .modinv _ _ _ => .modinv
  | .legendre _ _ _ => .legendre
  | .modsqrt _ _ _ => .modsqrt
  | .pdecomp _ _ _ => .pdecomp
  | .padd _ _ _ => .padd
  | .pdbl _ _ => .pdbl
  | .psmul _ _ _ => .psmul
  | .keygen _ => .keygen
  | .pubkey _ => .pubkey
  | .sign => .sign
  | .verify _ => .verify
  | .sigenc => .sigenc
  | .sigdec => .sigdec

/-- A row of spec/opcode_table.json: the bits a word must have (`mask`) and their values (`pattern`). -/
structure Row where
  mnemonic : Mnemonic
  pattern : BusWord
  mask : BusWord
  deriving DecidableEq, Repr

/-- The table's `match` and `mask` columns, in its order (R103). -/
def opcodeTable : List Row :=
  [ ⟨.init, 0x00000001, 0xFFFFFFFF⟩, ⟨.zeroize, 0x00000002, 0xFFFFFFFF⟩,
    ⟨.modadd, 0x00000010, 0xFFE888FF⟩, ⟨.modsub, 0x00000011, 0xFFE888FF⟩,
    ⟨.modmul, 0x00000012, 0xFFE888FF⟩, ⟨.mmul, 0x00000013, 0xFFE888FF⟩,
    ⟨.modred, 0x00000014, 0xFFEF88FF⟩, ⟨.modexp, 0x00000015, 0xFFE888FF⟩,
    ⟨.modinv, 0x00000016, 0xFFEF88FF⟩, ⟨.legendre, 0x00000017, 0xFFEF88FF⟩,
    ⟨.modsqrt, 0x00000018, 0xFFEF88FF⟩, ⟨.pdecomp, 0x00000020, 0xF00F8CFF⟩,
    ⟨.padd, 0x00000021, 0xFFF00CFF⟩, ⟨.pdbl, 0x00000022, 0xFFFF0CFF⟩,
    ⟨.psmul, 0x00000023, 0xFFF80CFF⟩, ⟨.keygen, 0x00000030, 0x000FFFFF⟩,
    ⟨.pubkey, 0x00000031, 0xFFFFFCFF⟩, ⟨.sign, 0x00000032, 0xFFFFFFFF⟩,
    ⟨.verify, 0x00000033, 0xFFFF0FFF⟩, ⟨.sigenc, 0x00000034, 0xFFFFFFFF⟩,
    ⟨.sigdec, 0x00000035, 0xFFFFFFFF⟩ ]

/-- The word has the bits of the row. -/
def Row.matches (r : Row) (w : BusWord) : Bool := w &&& r.mask == r.pattern

/-- The table's column `constraints`, what a mask cannot say (R103, R105): the point sources. -/
def Mnemonic.constraint (k : Mnemonic) (w : BusWord) : Bool :=
  match k with
  | .padd => validPointSource (fieldRa w) && validPointSource (fieldRb w)
  | .pdbl | .psmul | .verify => validPointSource (fieldRa w)
  | .init | .zeroize | .modadd | .modsub | .modmul | .mmul | .modred | .modexp | .modinv => true
  | .legendre | .modsqrt | .pdecomp | .keygen | .pubkey | .sign | .sigenc | .sigdec => true

end Sys2Proof
end

