-- ==== Sys2Proof/Config.lean ====
section
/-!
DEFINITION. What a build of the core fixes, and the free values.
-/

namespace Sys2Proof

/-- The build and platform parameters of R53: `W` (R7), `BASE` (R70) and `SQRT_DRAW_LIMIT` (R10).
No step changes them.  They are data beside the registers, so that a statement about every state is
one about every build (assumption 1). -/
structure Build where
  /-- `W`, the width of a scalar, coordinate or domain register (R7; `CFGW` reads it, R40). -/
  w : Nat
  /-- `BASE`, the platform's address of the register window (R70). -/
  base : Nat
  /-- `SQRT_DRAW_LIMIT` (R10; `DRAWLIM` reads it, R40). -/
  drawLimit : BusWord
  deriving DecidableEq, Repr

/-- What R7, R10 and R70 require of the parameters. -/
abbrev Build.Wf (b : Build) : Prop :=
  b.w % 32 = 0 ∧ 32 ≤ b.w ∧ b.w ≤ 256 ∧ b.base % 0x800 = 0 ∧ 1 ≤ b.drawLimit.toNat

/-- `NLIMB = W / 32` (R7). -/
def Build.nlimb (b : Build) : Nat := b.w / 32

/-- The build `State.reset` is of: `W = 192` is R7's reference instance.  `BASE = 0` and the draw
limit 64 are DESIGN CHOICES (assumption 2, unsafe): D12 and D15 leave both open. -/
def Build.reference : Build := { w := 192, base := 0, drawLimit := 64 }

/-- The constant the register `ID` reads (R31). -/
def Config.idValue : BusWord := 0x4D5A4907

/-- The answer number `n` of the random-number port when the state supplies none: a free value
(R24, R240; U8).  It has no body, so a claim holds whatever the port answers (assumption 5, safe). -/
opaque Config.freeDraw : Nat → Word

/-- How many answers after the ones the state supplies an uncapped retry loop (R190, R196) is followed
for, when the loop begins after `n` answers: a free value.  It has no body, so a claim holds for
every number of rounds.  A loop that has not exited by then is the one whose further answers are all 0: the
hang of R28 (assumption 6, safe). -/
opaque Config.freeRounds : Nat → Nat

end Sys2Proof
end

