-- ==== Sys2Proof/Machine/State.lean ====
section
/-!
DEFINITION. The state of the core as plain data (spec/10_state.md), the host's side of the bus
(spec/20_memory.md), and the reasons a step can stop.
-/

namespace Sys2Proof.Machine

open Sys2Proof

/-- The error kinds of R220.  An error is a result of a command, not a stop of the machine (R230). -/
inductive ErrorKind where
  | invalidRange
  | noModularInverse
  | nonResidue
  | malformedSignatureEncoding
  | invalidPoint
  | illegalCommand
  | notInitialised
  | operandRange
  | invalidDomain
  | alreadyInitialised
  deriving DecidableEq, Repr

/-- A raised error, `Kind(info)` (R25). -/
structure CmdError where
  kind : ErrorKind
  info : Byte
  deriving DecidableEq, Repr

/-- The fields of `STATUS` (R48).  `BUSY` and the reserved bits always read 0 and are no state. -/
structure Status where
  /-- Bit 0: a command has completed since `DONE` was last cleared. -/
  done : Bool
  /-- Bit 1: the last command was an accepting `VERIFY`. -/
  valid : Bool
  /-- Bit 2: domain parameters validated and frozen. -/
  locked : Bool
  /-- Bits 15:8: error kind of the last command, 0 for none. -/
  err : Byte
  /-- Bits 23:16: detail of the error. -/
  errInfo : Byte
  deriving DecidableEq, Repr

/-- A point register in its three-part form (R41). -/
structure PointReg where
  x : Word
  y : Word
  inf : Bool
  deriving DecidableEq, Repr

/-- The canonical identity: `INF = 1`, `X = 0`, `Y = 0` (R41). -/
def PointReg.identity : PointReg := { x := 0, y := 0, inf := true }

/-- A point value (R22). -/
inductive Point where
  | infinity
  | finite (x y : Nat)
  deriving DecidableEq, Repr

/-- The random-number port as the core sees it (R24, R240): the answers the environment has lined up,
in call order, and how many answers have been taken.  When `queue` is empty the port answers the free
value `Config.freeDraw taken` (assumption 5). -/
structure Port where
  queue : List Word
  taken : Nat
  deriving DecidableEq, Repr

/-- What the host or the platform does next: a bus access of the given width in bytes (R26, R76), or
the reset input (R250). -/
inductive HostEvent where
  | read (addr width : Nat)
  | write (addr width : Nat) (value : BusWord)
  | reset
  deriving DecidableEq, Repr

/-- What the bus answers to an access: the data of a read, the acknowledge of a write, or the bus
error of R76. -/
inductive Response where
  | data (value : BusWord)
  | ack
  | busError
  deriving DecidableEq, Repr

/-- The whole state: the registers of R30, and beside them the parameters and inputs of R53 (the build,
the random port, the host's accesses), which no rule calls state of the core. -/
structure State where
  /-- The build parameters (R53); no step changes them. -/
  build : Build
  /-- `CTRL.IE` (R47); the other bits of `CTRL` read 0 and ignore writes. -/
  ctrlIe : Bool
  /-- `STATUS` (R48). -/
  status : Status
  /-- `HLEN` (R39). -/
  hlen : BusWord
  /-- `SIGLEN` (R46). -/
  siglen : BusWord
  /-- `GCPAR` (R38). -/
  gcpar : Byte
  /-- `NBITS` (R40). -/
  nbits : BusWord
  /-- `P` (R35). -/
  p : Word
  /-- `A` (R36). -/
  a : Word
  /-- `B` (R36). -/
  b : Word
  /-- `N` (R37). -/
  n : Word
  /-- `GCX` (R38). -/
  gcx : Word
  /-- `D`, the private key (R43). -/
  d : Word
  /-- `S[0..7]` (R32). -/
  sreg : Vector Word 8
  /-- `PT[0..3]` (R41). -/
  pt : Vector PointReg 4
  /-- `G` (R42). -/
  g : PointReg
  /-- `SIGR` (R45). -/
  sigr : Word
  /-- `SIGS` (R45). -/
  sigs : Word
  /-- `H[0..63]` (R44). -/
  h : Vector Byte 64
  /-- `SIG[0..127]` (R46). -/
  sig : Vector Byte 128
  /-- The random-number port (R240).  The model's own field. -/
  port : Port
  /-- The host's events not served yet, in program order (R27, R81).  The model's own field. -/
  host : List HostEvent
  /-- What the host has observed, newest first (R270).  The model's own field. -/
  responses : List Response
  deriving DecidableEq, Repr

/-- Why a step stops. -/
inductive Fault where
  /-- Raised by `step` for a host access whose address is outside the register window: R70 gives the
  core no other address space, and what answers there is not this core.  Safe: the model stops where
  the platform goes on (assumption 7). -/
  | outsideWindow (addr : Nat)
  /-- Raised by the meanings of `KEYGEN` and `SIGN` when no round of their uncapped retry loop meets its
  exit condition on the draws: R28 gives no next state, a stuck core whose `CMD` write is never
  acknowledged (R80, R270).  Safe: the core has no step either (assumption 6). -/
  | endlessRetry
  deriving DecidableEq, Repr

/-- Why a step has no meaning. -/
inductive Refusal where
  /-- An instruction without a meaning yet, raised by its arm of `exec`.  Safe.  No arm raises it. -/
  | notModelled (mnemonic : String)
  deriving DecidableEq, Repr

/-- The reset values of R52 for a given build; `host`, `port` and `responses` belong to the environment
and start empty (assumptions 4, 5, 8). -/
def State.resetOf (build : Build) : State where
  build := build
  ctrlIe := false
  status := { done := false, valid := false, locked := false, err := 0, errInfo := 0 }
  hlen := 0
  siglen := 0
  gcpar := 0
  nbits := 0
  p := 0
  a := 0
  b := 0
  n := 0
  gcx := 0
  d := 0
  sreg := Vector.replicate 8 0
  pt := Vector.replicate 4 PointReg.identity
  g := PointReg.identity
  sigr := 0
  sigs := 0
  h := Vector.replicate 64 0
  sig := Vector.replicate 128 0
  port := { queue := [], taken := 0 }
  host := []
  responses := []

/-- The machine right after reset (R52, R250), of the reference build. -/
def State.reset : State := State.resetOf Build.reference

end Sys2Proof.Machine
end

