-- ==== Sys2Proof/Machine/Arith.lean ====
section
/-!
DEFINITION. The integer primitives of spec/00_scope.md R13 to R20, on mathematical integers (R141).
-/

namespace Sys2Proof.Machine

open Sys2Proof

/-- `x mod m`, the non-negative residue of an integer (R13). -/
def residue (x : Int) (m : Nat) : Nat := (x % (m : Int)).toNat

/-- `bitlength(x)` (R15). -/
def bitlength (x : Nat) : Nat := if x = 0 then 0 else Nat.log2 x + 1

/-- Square-and-multiply: `acc · base ^ e mod m` for an exponent of at most `fuel` bits. -/
def modexpLoop (m : Nat) : Nat → Nat → Nat → Nat → Nat
  | 0, _, _, acc => acc
  | fuel + 1, e, base, acc =>
    modexpLoop m fuel (e / 2) (base * base % m) (if e % 2 = 1 then acc * base % m else acc)

/-- `modexp(x, e, m) = (x ^ e) mod m`, with `x ^ 0 = 1` (R19), by square-and-multiply. -/
def modexp (x e m : Nat) : Nat := modexpLoop m (bitlength e) e (x % m) (1 % m)

/-- `legendre(x, q)` (R20): a non-residue shows as `q − 1`. -/
def legendre (x q : Nat) : Nat := modexp x ((q - 1) / 2) q

/-- Euclid's algorithm with the coefficient of the second argument kept modulo `m`: from remainders
`r0, r1` and coefficients `t0, t1` to the greatest common divisor and its coefficient. -/
def euclid (m : Nat) : Nat → Nat → Nat → Nat → Nat → Nat × Nat
  | 0, r0, _, t0, _ => (r0, t0)
  | fuel + 1, r0, r1, t0, t1 =>
    if r1 = 0 then (r0, t0)
    else euclid m fuel r1 (r0 % r1) t1 ((t0 + (m - r0 / r1 * t1 % m)) % m)

/-- `inverse(x, m)` (R18): the `v` in `[1, m − 1]` with `x · v mod m = 1` when
`gcd(x mod m, m) = 1`, and none otherwise. -/
def inverse (x m : Nat) : Option Nat :=
  let r := euclid m (x % m + 1) m (x % m) 0 1
  if r.1 = 1 then some r.2 else none

/-- The error of a rule that calls `inverse` where none exists (R18, R220). -/
def noInverse : CmdError := { kind := .noModularInverse, info := 0 }

/-- `inverse(x, m)` in a rule: `NoModularInverse(0)` where it does not exist. -/
def inverseOrRaise (x m : Nat) : Except CmdError Nat :=
  match inverse x m with
  | some v => .ok v
  | none => .error noInverse

/-- `OS2I(B)`, first byte most significant (R16). -/
def os2i (bytes : List Byte) : Nat := bytes.foldl (fun acc b => acc * 256 + b.toNat) 0

/-- One answer of the port to `RandBits(k)`: the next supplied answer, or the free value when none is
supplied, cut to `k` bits (R24, R240). -/
def Port.randBits (port : Port) (k : Nat) : Nat × Port :=
  match port.queue with
  | v :: rest => (v.toNat % 2 ^ k, { queue := rest, taken := port.taken + 1 })
  | [] => ((Config.freeDraw port.taken).toNat % 2 ^ k, { queue := [], taken := port.taken + 1 })

/-- What an uncapped retry loop (R190, R196) comes to: a round met its exit condition, a round raised an
error, or no round did (R28: no next state). -/
inductive Retry (α : Type) where
  | done (v : α) (port : Port)
  | failed (e : CmdError) (port : Port)
  | endless
  deriving DecidableEq, Repr

/-- Rounds of a retry loop, one `k`-bit draw each, until one exits; at most `rounds` of them. -/
def retryLoop {α : Type} (k : Nat) (round : Nat → Except CmdError (Option α)) : Nat → Port → Retry α
  | 0, _ => .endless
  | rounds + 1, port =>
    match round (port.randBits k).1 with
    | .error e => .failed e (port.randBits k).2
    | .ok (some v) => .done v (port.randBits k).2
    | .ok none => retryLoop k round rounds (port.randBits k).2

/-- The rounds of one command: every answer the state supplies, and after them a free number of free
answers.  The loop that has not exited by then is the one whose further answers are all 0, which neither
loop accepts: it never exits (R28; assumption 6). -/
def Port.retry {α : Type} (port : Port) (k : Nat) (round : Nat → Except CmdError (Option α)) : Retry α :=
  retryLoop k round (Config.freeRounds port.taken + port.queue.length) port

end Sys2Proof.Machine
end

