-- ==== Sys2Proof/Machine/Flags.lean ====
section
/-!
DEFINITION. `STATUS`, the error codes and the interrupt line (spec/10_state.md R48;
spec/60_exceptions.md R220, R226).
-/

namespace Sys2Proof.Machine

open Sys2Proof

/-- The code `STATUS.ERR` shows for a kind (R220). -/
def ErrorKind.code : ErrorKind → Byte
  | .invalidRange => 1
  | .noModularInverse => 2
  | .nonResidue => 3
  | .malformedSignatureEncoding => 4
  | .invalidPoint => 5
  | .illegalCommand => 8
  | .notInitialised => 9
  | .operandRange => 10
  | .invalidDomain => 11
  | .alreadyInitialised => 12

/-- The word a read of `STATUS` returns (R48): `BUSY` (bit 3) and the reserved bits are 0. -/
def Status.word (st : Status) : BusWord :=
  (0 : Byte) ++ st.errInfo ++ st.err ++ (0 : BitVec 4) ++ BitVec.ofBool false ++
    BitVec.ofBool st.locked ++ BitVec.ofBool st.valid ++ BitVec.ofBool st.done

/-- What the end of a command writes to `STATUS` (R130): `LOCKED` stays. -/
def Status.ended (st : Status) (valid : Bool) (err info : Byte) : Status :=
  { done := true, valid := valid, locked := st.locked, err := err, errInfo := info }

/-- A host write to `STATUS` (R48): clears `DONE` when bit 0 is written 1, and nothing else. -/
def Status.hostWrite (st : Status) (v : BusWord) : Status :=
  if v.getLsbD 0 then { st with done := false } else st

/-- The word a read of `CTRL` returns (R47). -/
def State.ctrlWord (s : State) : BusWord := (0 : BitVec 31) ++ BitVec.ofBool s.ctrlIe

/-- The interrupt line (R226). -/
def State.irq (s : State) : Bool := s.ctrlIe && s.status.done

end Sys2Proof.Machine
end

