-- ==== Sys2Proof/Machine/Ops.lean ====
section
/-!
DEFINITION. The named operations over the registers: how a command reads and writes them, how it ends,
and how it raises an error (spec/00_scope.md R23, R25; spec/40_control.md R130; spec/60_exceptions.md R230).
-/

namespace Sys2Proof.Machine

open Sys2Proof

/-- The outcome type of the model's meanings. -/
abbrev Result := Host.Outcome State Fault Refusal

/-- A register takes a value a rule has already reduced below `2 ^ W` (R13). -/
def toWord (v : Nat) : Word := BitVec.ofNat 256 v

/-! ### The end of a command, and errors -/

/-- The end of a command (R130, R270): `STATUS` is written. -/
def State.endCommand (s : State) (valid : Bool) (err info : Byte) : State :=
  { s with status := s.status.ended valid err info }

/-- A command that completed without an error and is not an accepting `VERIFY` (R130). -/
def State.succeed (s : State) : State := s.endCommand false 0 0

/-- TAKING AN EXCEPTION: `raise Kind(info)` (R25, R230).  No register but `STATUS` changes, nothing is
saved and control goes nowhere. -/
def State.raise (s : State) (e : CmdError) : State := s.endCommand false e.kind.code e.info

/-- What stands for a return from an exception (R232): nothing is restored; the host may clear `DONE`
by writing 1 to bit 0 of `STATUS`, and need not. -/
def State.acknowledgeDone (s : State) (v : BusWord) : State :=
  { s with status := s.status.hostWrite v }

/-- The lock stage (R109 stage 2) of every command but `INIT` and `ZEROIZE`. -/
def State.whenLocked (s : State) (body : Result) : Result :=
  if s.status.locked then body else .next (s.raise { kind := .notInitialised, info := 0 })

/-! ### Register writes -/

/-- `S[i] <- v` (R23). -/
def State.setS (s : State) (i : Fin 8) (v : Nat) : State := { s with sreg := s.sreg.set i (toWord v) }

/-- The stored form of a point value (R41). -/
def PointReg.ofPoint : Point → PointReg
  | .infinity => PointReg.identity
  | .finite x y => { x := toWord x, y := toWord y, inf := false }

/-- The point value of a stored form (R41): `Infinity` when `INF = 1`, whatever `X` and `Y` hold. -/
def PointReg.value (r : PointReg) : Point := if r.inf then .infinity else .finite r.x.toNat r.y.toNat

/-- `PT[j] <- v` (R23, R41). -/
def State.setPt (s : State) (j : Fin 4) (v : Point) : State :=
  { s with pt := s.pt.set j (PointReg.ofPoint v) }

/-- `D <- v`. -/
def State.setD (s : State) (v : Nat) : State := { s with d := toWord v }

/-- `SIGR <- r; SIGS <- s`. -/
def State.setSignature (s : State) (r sv : Nat) : State := { s with sigr := toWord r, sigs := toWord sv }

/-- The first bytes of a buffer replaced, the rest kept. -/
def overwrite : List Byte → List Byte → List Byte
  | _, [] => []
  | [], old => old
  | v :: vs, _ :: os => v :: overwrite vs os

theorem overwrite_length (new old : List Byte) : (overwrite new old).length = old.length := by
  induction old generalizing new with
  | nil => cases new <;> rfl
  | cons o os ih => cases new <;> simp [overwrite, ih]

/-- A buffer with its first bytes replaced. -/
def overwriteBuffer {k : Nat} (new : List Byte) (old : Vector Byte k) : Vector Byte k :=
  ⟨(overwrite new old.toList).toArray, by simp [overwrite_length]⟩

/-- `SIG[0 .. len − 1] <- bytes; SIGLEN <- len` (R196, R206): bytes beyond are not written. -/
def State.setSigString (s : State) (bytes : List Byte) : State :=
  { s with sig := overwriteBuffer bytes s.sig, siglen := BitVec.ofNat 32 bytes.length }

/-- The three writes of a successful `INIT` (R131). -/
def State.lockDomain (s : State) (g : Point) (l : Nat) : State :=
  { s with g := PointReg.ofPoint g, nbits := BitVec.ofNat 32 l, status := { s.status with locked := true } }

/-- The writes of `ZEROIZE` (R133). -/
def State.clearWorking (s : State) : State :=
  { s with
    d := 0
    sreg := Vector.replicate 8 0
    pt := Vector.replicate 4 PointReg.identity
    sigr := 0
    sigs := 0
    siglen := 0
    h := Vector.replicate 64 0
    sig := Vector.replicate 128 0 }

/-- The port after a command's draws; the core keeps no random state (R24). -/
def State.setPort (s : State) (port : Port) : State := { s with port := port }

/-! ### Ends of the meanings -/

/-- A command that writes one scalar register and succeeds. -/
def State.finishScalar (s : State) (rd : Fin 8) (r : Except CmdError Nat) : Result :=
  match r with
  | .ok v => .next (s.setS rd v).succeed
  | .error e => .next (s.raise e)

/-- A command that writes one point register and succeeds. -/
def State.finishPoint (s : State) (rd : Fin 4) (r : Except CmdError Point) : Result :=
  match r with
  | .ok v => .next (s.setPt rd v).succeed
  | .error e => .next (s.raise e)

end Sys2Proof.Machine
end

