-- ==== Sys2Proof/Machine/Operands.lean ====
section
/-!
DEFINITION. The operand forms (spec/30_encoding.md R104, R105, R107; spec/00_scope.md R23;
spec/43_point.md R171).
-/

namespace Sys2Proof.Machine

open Sys2Proof

/-- `S[i]` as an integer (R23, R140). -/
def State.readS (s : State) (i : Fin 8) : Nat := (s.sreg[i]).toNat

/-- `M(m)` (R23, R104). -/
def State.modulus (s : State) : ModSel → Nat
  | .p => s.p.toNat
  | .n => s.n.toNat

/-- The register `PTsrc(j)` names (R23, R107); none for a reserved index. -/
def State.pointSource (s : State) (j : BitVec 4) : Option PointReg :=
  if h : j.toNat < 4 then some s.pt[j.toNat]
  else if j.toNat = 4 then some s.g
  else none

/-- The error of a reserved register index (R105). -/
def reservedIndex : CmdError := { kind := .illegalCommand, info := 2 }

/-- Use a point source; a reserved index raises `IllegalCommand(2)` (R105), in the decode stage, before
the lock stage (R109).  A decoded command never has one. -/
def State.withSource (s : State) (j : BitVec 4) (use : PointReg → Result) : Result :=
  match s.pointSource j with
  | some r => use r
  | none => .next (s.raise reservedIndex)

/-- The error of a finite point with a coordinate `>= P` (R171, R220). -/
def pointRange : CmdError := { kind := .operandRange, info := 2 }

/-- Reading a point operand (R171): a finite point has both coordinates below `P`. -/
def State.readPoint (s : State) (r : PointReg) : Except CmdError Point :=
  match r.value with
  | .infinity => .ok .infinity
  | .finite x y => if x < s.p.toNat ∧ y < s.p.toNat then .ok (.finite x y) else .error pointRange

end Sys2Proof.Machine
end

