-- ==== Sys2Proof/Machine/Codec.lean ====
section
/-!
DEFINITION. The hexadecimal signature string and the codec commands (spec/00_scope.md R17;
spec/44_signature.md R198, R199, R206, R208).
-/

namespace Sys2Proof.Machine

open Sys2Proof

/-- `hexdigit(v)`, lower case (R17). -/
def hexdigit (v : Nat) : Byte := if v ≤ 9 then BitVec.ofNat 8 (0x30 + v) else BitVec.ofNat 8 (0x61 + (v - 10))

/-- `hexenc(v, w)`: `w` digits, most significant first (R17). -/
def hexenc (v : Nat) : Nat → List Byte
  | 0 => []
  | w + 1 => hexdigit (v / 16 ^ w % 16) :: hexenc v w

/-- `hexval(c)`, both letter cases (R17). -/
def hexval (c : Byte) : Option Nat :=
  if 0x30 ≤ c.toNat ∧ c.toNat ≤ 0x39 then some (c.toNat - 0x30)
  else if 0x61 ≤ c.toNat ∧ c.toNat ≤ 0x66 then some (c.toNat - 0x61 + 10)
  else if 0x41 ≤ c.toNat ∧ c.toNat ≤ 0x46 then some (c.toNat - 0x41 + 10)
  else none

/-- `hexdec(T)` (R17), a byte without a `hexval` counting as 0: its callers check the bytes first. -/
def hexdec (bytes : List Byte) : Nat := bytes.foldl (fun acc c => acc * 16 + (hexval c).getD 0) 0

/-- `HEXW = NBITS / 4` (R8, R40). -/
def State.hexw (s : State) : Nat := s.nbits.toNat / 4

/-- `SigEncode(r, s)` (R198). -/
def sigEncode (hexw r sv : Nat) : List Byte := hexenc r hexw ++ hexenc sv hexw

/-- The error of a malformed signature string (R199, R220). -/
def malformed (info : Byte) : CmdError := { kind := .malformedSignatureEncoding, info := info }

/-- `SigDecode()` (R199): the length is tested before the characters. -/
def State.sigDecode (s : State) : Except CmdError (Nat × Nat) :=
  let field := s.sig.toList.take (2 * s.hexw)
  if s.siglen.toNat ≠ 2 * s.hexw then .error (malformed 1)
  else if field.all (fun c => (hexval c).isSome) then
    .ok (hexdec (field.take s.hexw), hexdec (field.drop s.hexw))
  else .error (malformed 2)

/-- SIGENC (R206): no check against `N`. -/
def execSigenc (s : State) : Result :=
  s.whenLocked
    (if 16 ^ s.hexw ≤ s.sigr.toNat ∨ 16 ^ s.hexw ≤ s.sigs.toNat then
      .next (s.raise { kind := .operandRange, info := 5 })
     else .next (s.setSigString (sigEncode s.hexw s.sigr.toNat s.sigs.toNat)).succeed)

/-- SIGDEC (R208): no range check against `N`. -/
def execSigdec (s : State) : Result :=
  s.whenLocked
    (match s.sigDecode with
     | .error e => .next (s.raise e)
     | .ok rs => .next (s.setSignature rs.1 rs.2).succeed)

end Sys2Proof.Machine
end

