-- ==== Sys2Proof/Machine/Sqrt.lean ====
section
/-!
DEFINITION. The modular square-root solver (spec/42_sqrt.md R160 to R164).
-/

namespace Sys2Proof.Machine

open Sys2Proof

/-- Step 2 (R162): divide by two while even, counting; the result is `(s, t)`. -/
def splitTwos : Nat → Nat → Nat → Nat × Nat
  | 0, s, t => (s, t)
  | fuel + 1, s, t => if t % 2 = 0 then splitTwos fuel (s + 1) (t / 2) else (s, t)

/-- `q − 1 = 2 ^ s · t` with `t` odd (R162). -/
def factorTwos (q : Nat) : Nat × Nat := splitTwos (bitlength (q - 1)) 0 (q - 1)

/-- Step 3 (R163): draw until a usable `b`; a draw outside `[1, q − 1]` is spent. -/
def sampleNonResidue (q : Nat) : Nat → Port → Option Nat × Port
  | 0, port => (none, port)
  | left + 1, port =>
    let u := (port.randBits (bitlength q)).1
    let port' := (port.randBits (bitlength q)).2
    if u = 0 ∨ q ≤ u then sampleNonResidue q left port'
    else if legendre u q ≠ 1 then (some u, port')
    else sampleNonResidue q left port'

/-- Step 4's loop (R164) with `after + 1` rounds to go: the exponent of round `i` is
`2 ^ (s − i − 1)`, which is two to the number of rounds still to come after it. -/
def refine (q xinv : Nat) : Nat → Nat → Nat → Nat
  | 0, _, r => r
  | after + 1, c, r =>
    let dv := modexp (r * r * xinv % q) (2 ^ after) q
    refine q xinv after (c * c % q) (if dv = q - 1 then r * c % q else r)

/-- The error of the solver (R220): `info` 0 for the Euler test, 1 for the draw limit. -/
def nonResidue (info : Byte) : CmdError := { kind := .nonResidue, info := info }

/-- Step 4 (R164) for a reduced residue `x` and a sampled `b`. -/
def rootFrom (x q b : Nat) : Except CmdError Nat :=
  let st := factorTwos q
  match inverseOrRaise x q with
  | .error e => .error e
  | .ok xinv => .ok (refine q xinv (st.1 - 1) (modexp b st.2 q) (modexp x ((st.2 + 1) / 2) q))

/-- `Sqrt(a, q, ρ)` (R160 to R164): the root or the error, and the port after the draws. -/
def sqrt (a q limit : Nat) (port : Port) : Except CmdError Nat × Port :=
  let x := a % q
  if x = 0 then (.ok 0, port)
  else if legendre x q ≠ 1 then (.error (nonResidue 0), port)
  else
    match sampleNonResidue q limit port with
    | (none, port') => (.error (nonResidue 1), port')
    | (some b, port') => (rootFrom x q b, port')

/-- The draw limit of the build (R10). -/
def State.drawLimit (s : State) : Nat := s.build.drawLimit.toNat

/-- MODSQRT (R166). -/
def execModsqrt (rd ra : Fin 8) (m : ModSel) (s : State) : Result :=
  s.whenLocked
    (let r := sqrt (s.readS ra) (s.modulus m) s.drawLimit s.port
     (s.setPort r.2).finishScalar rd r.1)

end Sys2Proof.Machine
end

