-- ==== Sys2Proof/Machine/Curve.lean ====
section
/-!
DEFINITION. The curve operations and the point commands (spec/43_point.md R170 to R179).
-/

namespace Sys2Proof.Machine

open Sys2Proof

/-- The third point of a line or tangent of slope `lam` (R173, R174): `x3`, then `y3`. -/
def thirdPoint (p lam x1 y1 x2 : Nat) : Point :=
  let x3 := residue ((lam : Int) * lam - x1 - x2) p
  .finite x3 (residue ((lam : Int) * ((x1 : Int) - x3) - y1) p)

/-- `Dbl(P1)` (R174). -/
def double (p a : Nat) : Point → Except CmdError Point
  | .infinity => .ok .infinity
  | .finite x1 y1 =>
    if y1 = 0 then .ok .infinity
    else
      match inverseOrRaise (2 * y1 % p) p with
      | .error e => .error e
      | .ok v => .ok (thirdPoint p ((3 * x1 * x1 + a) * v % p) x1 y1 x1)

/-- `Add(P1, P2)` (R173), every degenerate case routed before the formula. -/
def add (p a : Nat) (p1 p2 : Point) : Except CmdError Point :=
  match p1, p2 with
  | .infinity, q => .ok q
  | .finite x1 y1, .infinity => .ok (.finite x1 y1)
  | .finite x1 y1, .finite x2 y2 =>
    if x1 = x2 then
      if y1 = y2 then double p a (.finite x1 y1) else .ok .infinity
    else
      match inverseOrRaise (residue ((x2 : Int) - x1) p) p with
      | .error e => .error e
      | .ok v => .ok (thirdPoint p (residue (((y2 : Int) - y1) * v) p) x1 y1 x2)

/-- The loop of `ScalarMul` (R178), one round a bit. -/
def scalarMulLoop (p a : Nat) : Nat → Nat → Point → Point → Except CmdError Point
  | 0, _, acc, _ => .ok acc
  | rounds + 1, k, acc, addend =>
    match (if k % 2 = 1 then add p a acc addend else .ok acc) with
    | .error e => .error e
    | .ok acc' =>
      match double p a addend with
      | .error e => .error e
      | .ok addend' => scalarMulLoop p a rounds (k / 2) acc' addend'

/-- `ScalarMul(k, P0)` (R178): double-and-add, least significant bit first, `bitlength(k)` rounds, the
accumulator starting at the identity and the scalar unreduced. -/
def scalarMul (p a k : Nat) (p0 : Point) : Except CmdError Point :=
  scalarMulLoop p a (bitlength k) k .infinity p0

/-- The curve's right side `(x³ + A·x + B) mod P` (R170). -/
def curveRhs (p a b x : Nat) : Nat := (x * x * x + a * x + b) % p

/-- The solver's failure seen from `Decompress`: `NonResidue(info)` becomes `InvalidPoint(info)`
(R170, C8). -/
def decompressError (e : CmdError) : CmdError :=
  if e.kind = .nonResidue then { kind := .invalidPoint, info := e.info } else e

/-- The root with the wanted parity (R170). -/
def pickRoot (p par beta : Nat) : Nat := if beta % 2 = par % 2 then beta else (p - beta) % p

/-- `Decompress(par, x, ρ)` (R170), and the port after the draws. -/
def decompress (p a b par x limit : Nat) (port : Port) : Except CmdError Point × Port :=
  match sqrt (curveRhs p a b x) p limit port with
  | (.ok beta, port') => (.ok (.finite x (pickRoot p par beta)), port')
  | (.error e, port') => (.error (decompressError e), port')

/-- `Decompress` with the curve and the limit of the state. -/
def State.decompress (s : State) (par x : Nat) : Except CmdError Point × Port :=
  Machine.decompress s.p.toNat s.a.toNat s.b.toNat par x s.drawLimit s.port

/-- `Add` on the curve of the state. -/
def State.addPoints (s : State) (p1 p2 : Point) : Except CmdError Point := add s.p.toNat s.a.toNat p1 p2

/-- `ScalarMul` on the curve of the state. -/
def State.mulPoint (s : State) (k : Nat) (p0 : Point) : Except CmdError Point :=
  scalarMul s.p.toNat s.a.toNat k p0

/-- PDECOMP (R172). -/
def execPdecomp (rd : Fin 4) (ra : Fin 8) (par : Byte) (s : State) : Result :=
  s.whenLocked
    (if s.p.toNat ≤ s.readS ra then .next (s.raise { kind := .operandRange, info := 1 })
     else
      let r := s.decompress par.toNat (s.readS ra)
      (s.setPort r.2).finishPoint rd r.1)

/-- PADD (R175). -/
def execPadd (rd : Fin 4) (ra rb : BitVec 4) (s : State) : Result :=
  s.withSource ra fun qa => s.withSource rb fun qb => s.whenLocked
    (s.finishPoint rd
      (match s.readPoint qa, s.readPoint qb with
       | .error e, _ => .error e
       | .ok _, .error e => .error e
       | .ok p1, .ok p2 => s.addPoints p1 p2))

/-- PDBL (R177). -/
def execPdbl (rd : Fin 4) (ra : BitVec 4) (s : State) : Result :=
  s.withSource ra fun qa => s.whenLocked
    (s.finishPoint rd
      (match s.readPoint qa with
       | .error e => .error e
       | .ok p1 => double s.p.toNat s.a.toNat p1))

/-- PSMUL (R179). -/
def execPsmul (rd : Fin 4) (ra : BitVec 4) (rb : Fin 8) (s : State) : Result :=
  s.withSource ra fun qa => s.whenLocked
    (s.finishPoint rd
      (match s.readPoint qa with
       | .error e => .error e
       | .ok p0 => s.mulPoint (s.readS rb) p0))

end Sys2Proof.Machine
end

