-- ==== Sys2Proof/Machine/Control.lean ====
section
/-!
DEFINITION. INIT and ZEROIZE (spec/40_control.md R131, R133).
-/

namespace Sys2Proof.Machine

open Sys2Proof

/-- The first of `INIT`'s seven checks that fails (R131). -/
def State.domainFailure (s : State) : Option Byte :=
  let p := s.p.toNat
  let a := s.a.toNat
  let b := s.b.toNat
  let n := s.n.toNat
  if p % 2 = 0 ∨ p < 5 then some 1
  else if p ≤ a ∨ p ≤ b then some 2
  else if (4 * a * a * a + 27 * b * b) % p = 0 then some 3
  else if n % 2 = 0 ∨ n < 3 then some 4
  else if bitlength n % 4 ≠ 0 then some 5
  else if p ≤ s.gcx.toNat then some 6
  else if s.hlen.toNat < 1 ∨ 64 < s.hlen.toNat then some 7
  else none

/-- INIT (R131). -/
def execInit (s : State) : Result :=
  if s.status.locked then .next (s.raise { kind := .alreadyInitialised, info := 0 })
  else
    match s.domainFailure with
    | some i => .next (s.raise { kind := .invalidDomain, info := i })
    | none =>
      match s.decompress s.gcpar.toNat s.gcx.toNat with
      | (.error e, port) => .next ((s.setPort port).raise e)
      | (.ok g, port) => .next (((s.setPort port).lockDomain g (bitlength s.n.toNat)).succeed)

/-- ZEROIZE (R133): executes whether or not the core is locked. -/
def execZeroize (s : State) : Result := .next s.clearWorking.succeed

end Sys2Proof.Machine
end

