-- ==== Sys2Proof/Machine/Field.lean ====
section
/-!
DEFINITION. The field arithmetic commands (spec/41_field.md R140 to R151).
-/

namespace Sys2Proof.Machine

open Sys2Proof

/-- A field command whose result always exists: one scalar destination, no error beyond decode and
`NotInitialised` (R140). -/
def State.fieldCommand (s : State) (rd : Fin 8) (v : Nat) : Result := s.whenLocked (s.finishScalar rd (.ok v))

/-- MODADD (R144). -/
def execModadd (rd ra rb : Fin 8) (m : ModSel) (s : State) : Result :=
  s.fieldCommand rd (residue ((s.readS ra : Int) + (s.readS rb : Int)) (s.modulus m))

/-- MODSUB (R145): the difference may be negative and is brought into the non-negative class. -/
def execModsub (rd ra rb : Fin 8) (m : ModSel) (s : State) : Result :=
  s.fieldCommand rd (residue ((s.readS ra : Int) - (s.readS rb : Int)) (s.modulus m))

/-- MODMUL (R146): the full product, reduced once. -/
def execModmul (rd ra rb : Fin 8) (m : ModSel) (s : State) : Result :=
  s.fieldCommand rd (residue ((s.readS ra : Int) * (s.readS rb : Int)) (s.modulus m))

/-- The Montgomery product `(x · y · inverse(2 ^ W, Mod)) mod Mod` (R143).  The inverse exists for the
odd modulus of a locked core; where it does not, R18 has the rule raise. -/
def montgomery (w x y modulus : Nat) : Except CmdError Nat :=
  match inverseOrRaise (2 ^ w) modulus with
  | .ok rinv => .ok (x * y * rinv % modulus)
  | .error e => .error e

/-- MMUL (R147). -/
def execMmul (rd ra rb : Fin 8) (m : ModSel) (s : State) : Result :=
  s.whenLocked (s.finishScalar rd (montgomery s.build.w (s.readS ra) (s.readS rb) (s.modulus m)))

/-- MODRED (R148). -/
def execModred (rd ra : Fin 8) (m : ModSel) (s : State) : Result :=
  s.fieldCommand rd (s.readS ra % s.modulus m)

/-- MODEXP (R149): the exponent is the full register and is not reduced. -/
def execModexp (rd ra rb : Fin 8) (m : ModSel) (s : State) : Result :=
  s.fieldCommand rd (modexp (s.readS ra) (s.readS rb) (s.modulus m))

/-- MODINV (R150). -/
def execModinv (rd ra : Fin 8) (m : ModSel) (s : State) : Result :=
  s.whenLocked (s.finishScalar rd (inverseOrRaise (s.readS ra % s.modulus m) (s.modulus m)))

/-- LEGENDRE (R151). -/
def execLegendre (rd ra : Fin 8) (m : ModSel) (s : State) : Result :=
  s.fieldCommand rd (legendre (s.readS ra) (s.modulus m))

end Sys2Proof.Machine
end

