-- ==== Sys2Proof/Machine/Signature.lean ====
section
/-!
DEFINITION. Keys, signing and verifying (spec/44_signature.md R190 to R201).
-/

namespace Sys2Proof.Machine

open Sys2Proof

/-- `DigestToE()` (R192): the first `HLEN` bytes of `H`, big-endian, reduced, 0 replaced by 1. -/
def State.digestToE (s : State) : Nat :=
  let e := os2i (s.h.toList.take s.hlen.toNat) % s.n.toNat
  if e = 0 then 1 else e

/-- One round of `KEYGEN` (R190): the drawn value is accepted in `[1, N − 1]` (C1). -/
def keygenRound (n u : Nat) : Except CmdError (Option Nat) :=
  if 1 ≤ u ∧ u ≤ n - 1 then .ok (some u) else .ok none

/-- KEYGEN (R190).  The loop has no cap: where no draw is accepted there is no next state (R28;
assumption 6). -/
def execKeygen (bits : BitVec 12) (s : State) : Result :=
  s.whenLocked
    (if bits.toNat < 1 ∨ s.build.w < bits.toNat then .next (s.raise { kind := .operandRange, info := 4 })
     else
      match s.port.retry bits.toNat (keygenRound s.n.toNat) with
      | .done u port => .next ((s.setPort port).setD u).succeed
      | .failed e port => .next ((s.setPort port).raise e)
      | .endless => .fault .endlessRetry)

/-- `D` outside `[1, N − 1]` (R194, R196). -/
def State.keyOutOfRange (s : State) : Bool := decide (s.d.toNat = 0 ∨ s.n.toNat ≤ s.d.toNat)

/-- The error of a private key outside `[1, N − 1]` (R220). -/
def keyRange : CmdError := { kind := .operandRange, info := 3 }

/-- PUBKEY (R194).  `G` is read as R171 has `PUBKEY` read a point. -/
def execPubkey (rd : Fin 4) (s : State) : Result :=
  s.whenLocked
    (if s.keyOutOfRange then .next (s.raise keyRange)
     else
      s.finishPoint rd
        (match s.readPoint s.g with
         | .error e => .error e
         | .ok g => s.mulPoint s.d.toNat g))

/-- The components a nonce `k` gives, once `C = k·G` is known (R196): none where the round fails, which
`C = Infinity` does. -/
def State.components (s : State) (e k : Nat) : Point → Option (Nat × Nat)
  | .infinity => none
  | .finite x _ =>
    let r := x % s.n.toNat
    let sv := (r * s.d.toNat + k * e) % s.n.toNat
    if r ≠ 0 ∧ sv ≠ 0 then some (r, sv) else none

/-- One round of `SIGN` for a drawn `k` (R196). -/
def State.signRound (s : State) (g : Point) (e k : Nat) : Except CmdError (Option (Nat × Nat)) :=
  if k = 0 ∨ s.n.toNat ≤ k then .ok none
  else
    match s.mulPoint k g with
    | .error err => .error err
    | .ok c => .ok (s.components e k c)

/-- SIGN (R196).  The nonce is kept in no register (R197).  The loop has no cap (R28;
assumption 6). -/
def execSign (s : State) : Result :=
  s.whenLocked
    (if s.keyOutOfRange then .next (s.raise keyRange)
     else
      match s.readPoint s.g with
      | .error e => .next (s.raise e)
      | .ok g =>
        match s.port.retry s.nbits.toNat (s.signRound g s.digestToE) with
        | .done rs port =>
          .next (((s.setPort port).setSignature rs.1 rs.2).setSigString (sigEncode s.hexw rs.1 rs.2)).succeed
        | .failed e port => .next ((s.setPort port).raise e)
        | .endless => .fault .endlessRetry)

/-- The error of a component outside `[1, N − 1]` (R200, R220). -/
def invalidRange (info : Byte) : CmdError := { kind := .invalidRange, info := info }

/-- The verifier's equation (R200): `C = z1·G + z2·Q`, accept when `C.x mod N = r`; `C = Infinity`
rejects. -/
def State.verifyEquation (s : State) (g q : Point) (r sv v : Nat) : Except CmdError Bool :=
  let n := s.n.toNat
  match s.mulPoint (sv * v % n) g with
  | .error e => .error e
  | .ok c1 =>
    match s.mulPoint ((n - r * v % n) % n) q with
    | .error e => .error e
    | .ok c2 =>
      match s.addPoints c1 c2 with
      | .error e => .error e
      | .ok .infinity => .ok false
      | .ok (.finite x _) => .ok (decide (x % n = r))

/-- The verifier's checks and computation, in the order of R200 (C15). -/
def State.verifyResult (s : State) (qr : PointReg) : Except CmdError Bool :=
  match s.sigDecode with
  | .error e => .error e
  | .ok (r, sv) =>
    if r = 0 ∨ s.n.toNat ≤ r then .error (invalidRange 1)
    else if sv = 0 ∨ s.n.toNat ≤ sv then .error (invalidRange 2)
    else
      match s.readPoint qr, s.readPoint s.g with
      | .error e, _ => .error e
      | .ok _, .error e => .error e
      | .ok q, .ok g =>
        match inverseOrRaise s.digestToE s.n.toNat with
        | .error e => .error e
        | .ok v => s.verifyEquation g q r sv v

/-- VERIFY (R200, R201): writes `STATUS` only; `VALID` is the verdict. -/
def execVerify (ra : BitVec 4) (s : State) : Result :=
  s.withSource ra fun qr => s.whenLocked
    (match s.verifyResult qr with
     | .error e => .next (s.raise e)
     | .ok accept => .next (s.endCommand accept 0 0))

end Sys2Proof.Machine
end

