-- ==== Sys2Proof/Machine/Dispatch.lean ====
section
/-!
DEFINITION. Which meaning each command has (spec/30_encoding.md R103).
-/

namespace Sys2Proof.Machine

open Sys2Proof

def exec (i : Instr) (s : State) : Host.Outcome State Fault Refusal :=
  match i with
  | .init => Sys2Proof.Machine.execInit s
  | .zeroize => Sys2Proof.Machine.execZeroize s
  | .modadd rd ra rb m => Sys2Proof.Machine.execModadd rd ra rb m s
  | .modsub rd ra rb m => Sys2Proof.Machine.execModsub rd ra rb m s
  | .modmul rd ra rb m => Sys2Proof.Machine.execModmul rd ra rb m s
  | .mmul rd ra rb m => Sys2Proof.Machine.execMmul rd ra rb m s
  | .modred rd ra m => Sys2Proof.Machine.execModred rd ra m s
  | .modexp rd ra rb m => Sys2Proof.Machine.execModexp rd ra rb m s
  | .modinv rd ra m => Sys2Proof.Machine.execModinv rd ra m s
  | .legendre rd ra m => Sys2Proof.Machine.execLegendre rd ra m s
  | .modsqrt rd ra m => Sys2Proof.Machine.execModsqrt rd ra m s
  | .pdecomp rd ra par => Sys2Proof.Machine.execPdecomp rd ra par s
  | .padd rd ra rb => Sys2Proof.Machine.execPadd rd ra rb s
  | .pdbl rd ra => Sys2Proof.Machine.execPdbl rd ra s
  | .psmul rd ra rb => Sys2Proof.Machine.execPsmul rd ra rb s
  | .keygen bits => Sys2Proof.Machine.execKeygen bits s
  | .pubkey rd => Sys2Proof.Machine.execPubkey rd s
  | .sign => Sys2Proof.Machine.execSign s
  | .verify ra => Sys2Proof.Machine.execVerify ra s
  | .sigenc => Sys2Proof.Machine.execSigenc s
  | .sigdec => Sys2Proof.Machine.execSigdec s

end Sys2Proof.Machine
end

