-- ==== Sys2Proof/Machine/Window.lean ====
section
/-!
DEFINITION. The host's register window (spec/20_memory.md R70 to R77) and the service of one host
event.
-/

namespace Sys2Proof.Machine

open Sys2Proof

/-- Size of the window in bytes (R70). -/
def windowSize : Nat := 0x800

/-- Offset of `CMD` (R71). -/
def cmdOffset : Nat := 0x00C

/-- What stands at a word offset of the window (R71); `limb` counts the 32-bit words of a slot. -/
inductive Location where
  | id | ctrl | status | cmd | cfgw | nbits | hlen | siglen | gcpar | drawlim
  | p (limb : Fin 8)
  | a (limb : Fin 8)
  | b (limb : Fin 8)
  | n (limb : Fin 8)
  | gcx (limb : Fin 8)
  | d (limb : Fin 8)
  | s (i limb : Fin 8)
  | ptX (j : Fin 4) (limb : Fin 8)
  | ptY (j : Fin 4) (limb : Fin 8)
  | ptFlags (j : Fin 4)
  | gX (limb : Fin 8)
  | gY (limb : Fin 8)
  | gFlags
  | sigr (limb : Fin 8)
  | sigs (limb : Fin 8)
  | h (word : Fin 16)
  | sig (word : Fin 32)
  | reserved
  deriving DecidableEq, Repr

/-- The word of a slot (`0x20` bytes) an offset is in. -/
def limbOf (off : Nat) : Fin 8 := Fin.ofNat 8 (off / 4)

/-- Which point register of `PT` an offset at or above `0x200` is in. -/
def pointOf (off : Nat) : Fin 4 := Fin.ofNat 4 ((off - 0x200) / 0x80)

/-- The control registers, `0x000` to `0x024` (R71). -/
def locateControl (off : Nat) : Location :=
  if off = 0x000 then .id
  else if off = 0x004 then .ctrl
  else if off = 0x008 then .status
  else if off = 0x00C then .cmd
  else if off = 0x010 then .cfgw
  else if off = 0x014 then .nbits
  else if off = 0x018 then .hlen
  else if off = 0x01C then .siglen
  else if off = 0x020 then .gcpar
  else if off = 0x024 then .drawlim
  else .reserved

/-- The address map of R71, for an offset that is a multiple of 4. -/
def locate (off : Nat) : Location :=
  if off < 0x040 then locateControl off
  else if off < 0x060 then .p (limbOf off)
  else if off < 0x080 then .a (limbOf off)
  else if off < 0x0A0 then .b (limbOf off)
  else if off < 0x0C0 then .n (limbOf off)
  else if off < 0x0E0 then .gcx (limbOf off)
  else if off < 0x100 then .d (limbOf off)
  else if off < 0x200 then .s (Fin.ofNat 8 ((off - 0x100) / 0x20)) (limbOf off)
  else if off < 0x400 then
    if off % 0x80 < 0x20 then .ptX (pointOf off) (limbOf off)
    else if off % 0x80 < 0x40 then .ptY (pointOf off) (limbOf off)
    else if off % 0x80 = 0x40 then .ptFlags (pointOf off)
    else .reserved
  else if off < 0x420 then .gX (limbOf off)
  else if off < 0x440 then .gY (limbOf off)
  else if off = 0x440 then .gFlags
  else if off < 0x480 then .reserved
  else if off < 0x4A0 then .sigr (limbOf off)
  else if off < 0x4C0 then .sigs (limbOf off)
  else if off < 0x500 then .reserved
  else if off < 0x540 then .h (Fin.ofNat 16 ((off - 0x500) / 4))
  else if off < 0x600 then .reserved
  else if off < 0x680 then .sig (Fin.ofNat 32 ((off - 0x600) / 4))
  else .reserved

/-! ### Limbs and byte lanes -/

/-- Limb `i` of a register (R74): `X[32·i + 31 : 32·i]`, and 0 at and beyond `NLIMB`. -/
def readLimb (nlimb : Nat) (x : Word) (i : Fin 8) : BusWord :=
  if i.val < nlimb then x.extractLsb' (32 * i.val) 32 else 0

/-- A host write to limb `i` (R74): those 32 bits are replaced, the other limbs stay; ignored at and
beyond `NLIMB`. -/
def writeLimb (nlimb : Nat) (x : Word) (i : Fin 8) (v : BusWord) : Word :=
  if i.val < nlimb then
    (x &&& ~~~((0xFFFFFFFF : Word) <<< (32 * i.val))) ||| (v.setWidth 256 <<< (32 * i.val))
  else x

/-- Byte `k` of a bus word: bits `8·k + 7 : 8·k`, the lowest address in the least significant lane (R73). -/
def lane (v : BusWord) (k : Nat) : Byte := v.extractLsb' (8 * k) 8

/-- The bus word of four buffer bytes, the first in the least significant lane (R73). -/
def joinLanes (b0 b1 b2 b3 : Byte) : BusWord := b3 ++ b2 ++ b1 ++ b0

/-- Word `k` of a byte buffer (R73). -/
def readLanes {len : Nat} (buf : Vector Byte len) (k : Nat) : BusWord :=
  joinLanes (buf[4 * k]?.getD 0) (buf[4 * k + 1]?.getD 0) (buf[4 * k + 2]?.getD 0) (buf[4 * k + 3]?.getD 0)

/-- A host write to word `k` of a byte buffer (R73). -/
def writeLanes {len : Nat} (buf : Vector Byte len) (k : Nat) (v : BusWord) : Vector Byte len :=
  (((buf.setIfInBounds (4 * k) (lane v 0)).setIfInBounds (4 * k + 1) (lane v 1)).setIfInBounds
    (4 * k + 2) (lane v 2)).setIfInBounds (4 * k + 3) (lane v 3)

/-- The word a read of a `FLAGS` register returns: bit 0 is `INF` (R41). -/
def flagWord (inf : Bool) : BusWord := (0 : BitVec 31) ++ BitVec.ofBool inf

/-! ### Reading and writing a location -/

/-- `MemRead` (R71, R72): reserved offsets, `CMD` and `D` read 0. -/
def State.readLocation (s : State) : Location → BusWord
  | .id => Config.idValue
  | .ctrl => s.ctrlWord
  | .status => s.status.word
  | .cmd => 0
  | .cfgw => BitVec.ofNat 32 s.build.w
  | .nbits => s.nbits
  | .hlen => s.hlen
  | .siglen => s.siglen
  | .gcpar => s.gcpar.setWidth 32
  | .drawlim => s.build.drawLimit
  | .p i => readLimb s.build.nlimb s.p i
  | .a i => readLimb s.build.nlimb s.a i
  | .b i => readLimb s.build.nlimb s.b i
  | .n i => readLimb s.build.nlimb s.n i
  | .gcx i => readLimb s.build.nlimb s.gcx i
  | .d _ => 0
  | .s k i => readLimb s.build.nlimb s.sreg[k] i
  | .ptX j i => readLimb s.build.nlimb s.pt[j].x i
  | .ptY j i => readLimb s.build.nlimb s.pt[j].y i
  | .ptFlags j => flagWord s.pt[j].inf
  | .gX i => readLimb s.build.nlimb s.g.x i
  | .gY i => readLimb s.build.nlimb s.g.y i
  | .gFlags => flagWord s.g.inf
  | .sigr i => readLimb s.build.nlimb s.sigr i
  | .sigs i => readLimb s.build.nlimb s.sigs i
  | .h k => readLanes s.h k.val
  | .sig k => readLanes s.sig k.val
  | .reserved => 0

/-- A write the lock lets through only while the parameters are open (R51). -/
def State.ifUnlocked (s : State) (s' : State) : State := if s.status.locked then s else s'

/-- `MemWrite` to a location other than `CMD` (R71, R72): read-only and reserved locations ignore it. -/
def State.writeLocation (s : State) (v : BusWord) : Location → State
  | .id | .cmd | .cfgw | .nbits | .drawlim | .gX _ | .gY _ | .gFlags | .reserved => s
  | .ctrl => { s with ctrlIe := v.getLsbD 0 }
  | .status => s.acknowledgeDone v
  | .hlen => s.ifUnlocked { s with hlen := v }
  | .siglen => { s with siglen := v }
  | .gcpar => s.ifUnlocked { s with gcpar := v.setWidth 8 }
  | .p i => s.ifUnlocked { s with p := writeLimb s.build.nlimb s.p i v }
  | .a i => s.ifUnlocked { s with a := writeLimb s.build.nlimb s.a i v }
  | .b i => s.ifUnlocked { s with b := writeLimb s.build.nlimb s.b i v }
  | .n i => s.ifUnlocked { s with n := writeLimb s.build.nlimb s.n i v }
  | .gcx i => s.ifUnlocked { s with gcx := writeLimb s.build.nlimb s.gcx i v }
  | .d i => { s with d := writeLimb s.build.nlimb s.d i v }
  | .s k i => { s with sreg := s.sreg.set k (writeLimb s.build.nlimb s.sreg[k] i v) }
  | .ptX j i => { s with pt := s.pt.set j { s.pt[j] with x := writeLimb s.build.nlimb s.pt[j].x i v } }
  | .ptY j i => { s with pt := s.pt.set j { s.pt[j] with y := writeLimb s.build.nlimb s.pt[j].y i v } }
  | .ptFlags j => { s with pt := s.pt.set j { s.pt[j] with inf := v.getLsbD 0 } }
  | .sigr i => { s with sigr := writeLimb s.build.nlimb s.sigr i v }
  | .sigs i => { s with sigs := writeLimb s.build.nlimb s.sigs i v }
  | .h k => { s with h := writeLanes s.h k.val v }
  | .sig k => { s with sig := writeLanes s.sig k.val v }

/-- A 32-bit read of the window (R26, R77): the word, and no side effect. -/
def State.memRead (s : State) (off : Nat) : BusWord := s.readLocation (locate off)

/-- A 32-bit write of the window to an offset other than `CMD` (R26, R77). -/
def State.memWrite (s : State) (off : Nat) (v : BusWord) : State := s.writeLocation v (locate off)

/-! ### One host event -/

/-- What the next host event asks for. -/
inductive Action where
  /-- No event: the core waits (R33). -/
  | idle
  /-- The reset input (R250). -/
  | reset
  /-- An address outside the window (R70). -/
  | outside (addr : Nat)
  /-- An access of the wrong width or alignment (R76). -/
  | refused
  /-- A word read of the window. -/
  | read (off : Nat)
  /-- A word write to an offset other than `CMD`. -/
  | write (off : Nat) (v : BusWord)
  /-- A word write to `CMD`: the command word (R80, R100). -/
  | command (w : BusWord)
  deriving DecidableEq, Repr

/-- The address is in the window at `BASE` (R70). -/
def State.inWindow (s : State) (addr : Nat) : Bool :=
  decide (s.build.base ≤ addr ∧ addr < s.build.base + windowSize)

/-- The access is one the window accepts: 32 bits at a multiple of 4 (R76). -/
def accepted (addr width : Nat) : Bool := decide (width = 4 ∧ addr % 4 = 0)

/-- The action of one event. -/
def State.actionOf (s : State) : HostEvent → Action
  | .reset => .reset
  | .read addr width =>
    if ¬ s.inWindow addr then .outside addr
    else if ¬ accepted addr width then .refused
    else .read (addr - s.build.base)
  | .write addr width v =>
    if ¬ s.inWindow addr then .outside addr
    else if ¬ accepted addr width then .refused
    else if addr - s.build.base = cmdOffset then .command v
    else .write (addr - s.build.base) v

/-- What the core does next: the action of the oldest event not served (R81). -/
def State.nextAction (s : State) : Action :=
  match s.host with
  | [] => .idle
  | ev :: _ => s.actionOf ev

/-- The oldest event is served and gone. -/
def State.dropEvent (s : State) : State := { s with host := s.host.tail }

/-- The oldest access is answered: the host sees the answer and goes on (R80, R81). -/
def State.answer (s : State) (r : Response) : State :=
  { s with host := s.host.tail, responses := r :: s.responses }

/-- Reset (R250): every register as R52 says; the build, the port, the host's later events and what the
host has observed are not state of the core and stay (assumption 8). -/
def State.resetCore (s : State) : State :=
  { State.resetOf s.build with port := s.port, host := s.host, responses := s.responses }

/-- The error of a word that is no command (R109 stage 1, R220). -/
def illegalCommand (info : Byte) : CmdError := { kind := .illegalCommand, info := info }

/-- The end of a `CMD` write for what `exec` answers (R80, R270): a command that is over is acknowledged;
one without a next state never is (R28). -/
def finishCommand : Result → Result
  | .next s => .next (s.answer .ack)
  | .fault f => .fault f
  | .refused r => .refused r

/-- Every action but a command. -/
def State.serve (s : State) : Action → Result
  | .idle => .next s
  | .reset => .next s.resetCore.dropEvent
  | .outside addr => .fault (.outsideWindow addr)
  | .refused => .next (s.answer .busError)
  | .read off => .next (s.answer (.data (s.memRead off)))
  | .write off v => .next ((s.memWrite off v).answer .ack)
  | .command _ => .next s

end Sys2Proof.Machine
end

