-- ==== Sys2Proof/Machine/Step.lean ====
section
/-!
DEFINITION. One step: the core serves the host's oldest event (spec/00_scope.md R27, R28;
spec/20_memory.md R80, R81).
-/

namespace Sys2Proof.Machine

open Sys2Proof

/-- A command word written to `CMD` (R80, R100): decoded and executed; a word that is no command raises
`IllegalCommand(info)` (R109, R110). -/
def runCommand (w : BusWord) (s : State) : Result :=
  match decode w with
  | .ok i => exec i s
  | .error e => .next (s.raise (illegalCommand e.info))

/-- One step of the machine. -/
def step (s : State) : Host.Outcome State Fault Refusal :=
  match s.nextAction with
  | .command w => finishCommand (runCommand w s)
  | act => s.serve act

/-- `s` with the command word `w` as the host's next access: a write of it to `CMD` (R80). -/
def State.withFetchWord (s : State) (nbits w : Nat) : State :=
  { s with
    host := .write (s.build.base + cmdOffset) 4 (BitVec.ofNat 32 (w % 2 ^ nbits)) :: s.host }

end Sys2Proof.Machine
end

