-- ==== Sys2Proof/Safety.lean ====
section
/-!
DEFINITION. What the claims mean by a well-formed state and by a safe host.
-/

namespace Sys2Proof.Machine

open Sys2Proof

/-- The value fits a `W`-bit register of the state's build (R13). -/
abbrev State.Fits (s : State) (x : Word) : Prop := x.toNat < 2 ^ s.build.w

/-- Both coordinates fit (R41). -/
abbrev State.PointFits (s : State) (r : PointReg) : Prop := s.Fits r.x ∧ s.Fits r.y

/-- Every `W`-bit register holds an integer in `[0, 2 ^ W − 1]` (R13, R32). -/
abbrev State.WidthsOk (s : State) : Prop :=
  s.Fits s.p ∧ s.Fits s.a ∧ s.Fits s.b ∧ s.Fits s.n ∧ s.Fits s.gcx ∧ s.Fits s.d ∧
  (∀ i : Fin 8, s.Fits s.sreg[i]) ∧ (∀ j : Fin 4, s.PointFits s.pt[j]) ∧ s.PointFits s.g ∧
  s.Fits s.sigr ∧ s.Fits s.sigs

/-- What `LOCKED` says of the other registers (R42, R40, R51): locked, the parameters pass `INIT`'s
checks, `NBITS` is the bit length of `N` and `G` is a finite point in range over `GCX`; unlocked, `G` is
the canonical identity and `NBITS` is 0. -/
abbrev State.LockOk (s : State) : Prop :=
  if s.status.locked then
    s.domainFailure = none ∧ s.nbits.toNat = bitlength s.n.toNat ∧
    s.g.inf = false ∧ s.g.x = s.gcx ∧ s.g.y.toNat < s.p.toNat
  else s.g = PointReg.identity ∧ s.nbits = 0

/-- The pairs of `ERR` and `ERRINFO` that R220 has a command produce. -/
def producedCodes : List (Byte × Byte) :=
  [(0, 0), (1, 1), (1, 2), (2, 0), (3, 0), (3, 1), (4, 1), (4, 2), (5, 0), (5, 1), (8, 0), (8, 1), (8, 2),
   (9, 0), (10, 1), (10, 2), (10, 3), (10, 4), (10, 5), (11, 1), (11, 2), (11, 3), (11, 4), (11, 5),
   (11, 6), (11, 7), (12, 0)]

/-- `STATUS` shows an outcome R220 and R201 have: a produced pair, and `VALID` only without an error. -/
abbrev State.CodesOk (s : State) : Prop :=
  (s.status.err, s.status.errInfo) ∈ producedCodes ∧
  (s.status.valid = true → s.status.err = 0 ∧ s.status.errInfo = 0)

/-- The invariant every run from reset keeps. -/
abbrev State.Inv (s : State) : Prop := s.build.Wf ∧ s.WidthsOk ∧ s.LockOk ∧ s.CodesOk

/-- The address of the event, if it is a bus access, is in the register window (R70). -/
def State.eventInWindow (s : State) : HostEvent → Bool
  | .reset => true
  | .read addr _ => s.inWindow addr
  | .write addr _ _ => s.inWindow addr

/-- A safe host: it accesses nothing but the window, so no step of it faults. -/
abbrev State.HostInWindow (s : State) : Prop := ∀ ev ∈ s.host, s.eventInWindow ev = true

end Sys2Proof.Machine
end

