-- ==== Sys2Proof/Certificates/Slice0/Obligations.lean ====
section
/-!
DEFINITION. The statements for the provers, from the numbered rules of spec/.  Each `def Obligations.X`
formalises what its docstring cites.
-/

namespace Sys2Proof.Claims

open Sys2Proof Sys2Proof.Machine

/-- `STATUS` after a command that completed without an error and is no accepting `VERIFY` (R130). -/
def okStatus (locked : Bool) : Status :=
  { done := true, valid := false, locked := locked, err := 0, errInfo := 0 }

/-- The state after `raise` with the given code and `info` (R25, R230): only `STATUS` differs. -/
def raised (s : State) (code info : Byte) : State :=
  { s with
    status := { done := true, valid := false, locked := s.status.locked, err := code, errInfo := info } }

/-- `t` is `s` after a successful command that wrote `v` to `S[rd]` and nothing else, and took draws. -/
def ScalarWritten (s t : State) (rd : Fin 8) (v : Nat) : Prop :=
  t.sreg[rd].toNat = v ∧
  t = { s with
        sreg := s.sreg.set rd (BitVec.ofNat 256 v)
        status := okStatus s.status.locked
        port := t.port }

/-- `t` is `s` after a successful command that wrote the point `c` to `PT[rd]` and nothing else, and
took draws (R41). -/
def PointWritten (s t : State) (rd : Fin 4) (c : Point) : Prop :=
  (t.pt[rd]).value = c ∧ (c = .infinity → t.pt[rd] = PointReg.identity) ∧
  t = { s with
        pt := s.pt.set rd t.pt[rd]
        status := okStatus s.status.locked
        port := t.port }

/-- The stored point is `Infinity` or has both coordinates below `P` (R22, R171). -/
def InRange (s : State) (q : PointReg) : Prop :=
  q.inf = true ∨ (q.x.toNat < s.p.toNat ∧ q.y.toNat < s.p.toNat)

/-- The same for a point value. -/
def PointInRange (p : Nat) : Point → Prop
  | .infinity => True
  | .finite x y => x < p ∧ y < p

/-- The point is the identity or satisfies the curve equation (R22). -/
def OnCurve (p a b : Nat) : Point → Prop
  | .infinity => True
  | .finite x y => (y * y) % p = (x * x * x + a * x + b) % p

/-- A draw the solver's sampler accepts (R163). -/
def UsableDraw (q u : Nat) : Prop := 1 ≤ u ∧ u < q ∧ u ^ ((q - 1) / 2) % q ≠ 1

/-- The `j`-th draw the port has lined up, cut to `k` bits (R24). -/
def lined (port : Port) (k j : Nat) : Option Nat := port.queue[j]?.map fun v => v.toNat % 2 ^ k

/-- One of the first `limit` draws the port has lined up is usable (R163). -/
def SamplerSucceeds (q limit : Nat) (port : Port) : Prop :=
  ∃ j u, j < limit ∧ lined port (bitlength q) j = some u ∧ UsableDraw q u

/-- Draw `j` is the first of the `limit` draws the solver may take that it can use (R163). -/
def FirstUsable (q limit : Nat) (port : Port) (j : Nat) : Prop :=
  j < limit ∧ (∃ u, lined port (bitlength q) j = some u ∧ UsableDraw q u) ∧
  ∀ i u, i < j → lined port (bitlength q) i = some u → ¬ UsableDraw q u

/-- None of the draws the solver may take, all lined up, is usable (R163). -/
def NoneUsable (q limit : Nat) (port : Port) : Prop :=
  limit ≤ port.queue.length ∧ ∀ j u, j < limit → lined port (bitlength q) j = some u → ¬ UsableDraw q u

/-- The port after `count` lined-up draws have been taken (R24). -/
def spent (port : Port) (count : Nat) : Port :=
  { queue := port.queue.drop count, taken := port.taken + count }

/-- What the solver leaves of the port when it succeeds on the reduced input `x` (R161, R163): no draw for
0, else the draws up to and including the first usable one. -/
def SolverDraws (q limit x : Nat) (port port' : Port) : Prop :=
  (x = 0 → port' = port) ∧ (x ≠ 0 → ∀ j, FirstUsable q limit port j → port' = spent port (j + 1))

/-- The scalar register a command writes (R103). -/
def scalarDest : Instr → Option (Fin 8)
  | .modadd rd _ _ _ | .modsub rd _ _ _ | .modmul rd _ _ _ | .mmul rd _ _ _ | .modexp rd _ _ _ => some rd
  | .modred rd _ _ | .modinv rd _ _ | .legendre rd _ _ | .modsqrt rd _ _ => some rd
  | .init | .zeroize | .sign | .sigenc | .sigdec | .keygen _ | .pubkey _ | .verify _ => none
  | .pdecomp _ _ _ | .padd _ _ _ | .pdbl _ _ | .psmul _ _ _ => none

/-- The point register a command writes (R103). -/
def pointDest : Instr → Option (Fin 4)
  | .pdecomp rd _ _ | .padd rd _ _ | .pdbl rd _ | .psmul rd _ _ | .pubkey rd => some rd
  | .init | .zeroize | .sign | .sigenc | .sigdec | .keygen _ | .verify _ => none
  | .modadd _ _ _ _ | .modsub _ _ _ _ | .modmul _ _ _ _ | .mmul _ _ _ _ | .modexp _ _ _ _ => none
  | .modred _ _ _ | .modinv _ _ _ | .legendre _ _ _ | .modsqrt _ _ _ => none

/-- The bytes of `SIG` that form the two fields (R46). -/
def sigField (s : State) : List Byte := s.sig.toList.take (2 * s.hexw)

/-- The string in `SIG` is well formed (R46, R199). -/
def StringWellFormed (s : State) : Prop :=
  s.siglen.toNat = 2 * s.hexw ∧ ∀ c ∈ sigField s, (hexval c).isSome = true

/-- The group law at the scalars a signature needs, for the key `D` and the public key `q` (R176, R180,
R202: a hypothesis of the statements that use it). -/
def KeyGroupLaw (s : State) (q : Point) : Prop :=
  ∀ z1 < s.n.toNat, ∀ z2 < s.n.toNat,
    (∃ c1 c2, s.mulPoint z1 s.g.value = .ok c1 ∧ s.mulPoint z2 q = .ok c2 ∧
      s.addPoints c1 c2 = s.mulPoint ((z1 + z2 * s.d.toNat) % s.n.toNat) s.g.value)

/-- A round of `SIGN` fails for the drawn `k` (R196): out of range, `C = Infinity`, `r = 0` or `s = 0`. -/
def SignRoundFails (s : State) (k : Nat) : Prop :=
  k = 0 ∨ s.n.toNat ≤ k ∨
  s.mulPoint k s.g.value = .ok .infinity ∨
  ∃ x y, s.mulPoint k s.g.value = .ok (.finite x y) ∧
    (x % s.n.toNat = 0 ∨ (x % s.n.toNat * s.d.toNat + k * s.digestToE) % s.n.toNat = 0)

end Sys2Proof.Claims

open Sys2Proof Sys2Proof.Machine Sys2Proof.Claims

/-! ### The primitives of spec/00_scope.md -/

/-- R15: `bitlength(x)`. -/
def Obligations.BitlengthBoundsItsArgument : Prop :=
  bitlength 0 = 0 ∧
  ∀ x k : Nat, 0 < x → (bitlength x = k ↔ 1 ≤ k ∧ 2 ^ (k - 1) ≤ x ∧ x < 2 ^ k)

/-- R19: `modexp(x, e, m) = (x ^ e) mod m`, with `x ^ 0 = 1` for `x = 0` too. -/
def Obligations.ModexpIsPowerModulo : Prop :=
  ∀ x e m : Nat, 2 ≤ m →
    modexp x e m = x ^ e % m ∧ modexp 0 0 m = 1 ∧ (1 ≤ e → modexp 0 e m = 0)

/-- R18: `inverse(x, m)` is the unique inverse in `[1, m − 1]` exactly when one exists. -/
def Obligations.InverseIsUniqueInverse : Prop :=
  ∀ x m : Nat, 2 ≤ m →
    (Nat.gcd (x % m) m = 1 →
      ∃ v, inverse x m = some v ∧ 1 ≤ v ∧ v ≤ m - 1 ∧ (x * v) % m = 1 ∧
        ∀ w, 1 ≤ w → w ≤ m - 1 → (x * w) % m = 1 → w = v) ∧
    (Nat.gcd (x % m) m ≠ 1 → inverse x m = none) ∧
    (x % m = 0 → inverse x m = none)

/-- R20: `legendre(x, q)` for odd `q ≥ 3`, and for prime `q` its three values. -/
def Obligations.LegendreIsEulerPower : Prop :=
  ∀ x q : Nat, 3 ≤ q → q % 2 = 1 →
    legendre x q = x ^ ((q - 1) / 2) % q ∧ legendre x q ≤ q - 1 ∧
    (Nat.Prime q →
      (legendre x q = 1 ∨ legendre x q = q - 1 ∨ legendre x q = 0) ∧ (legendre x q = 0 ↔ q ∣ x))

/-- R17: `hexdigit`, byte `i` of `hexenc`, `hexval` on both letter cases and no other byte, `hexdec` as a
sum; and R209's `hexdec(hexenc(v, w)) = v`. -/
def Obligations.HexFieldRoundTrip : Prop :=
  (∀ v : Nat, (v ≤ 9 → hexdigit v = BitVec.ofNat 8 (0x30 + v)) ∧
    (10 ≤ v → v ≤ 15 → hexdigit v = BitVec.ofNat 8 (0x61 + (v - 10)))) ∧
  (∀ w v : Nat, v < 16 ^ w →
    (hexenc v w).length = w ∧ (∀ c ∈ hexenc v w, (hexval c).isSome = true) ∧ hexdec (hexenc v w) = v ∧
    ∀ i < w, (hexenc v w)[i]? = some (hexdigit ((v >>> (4 * (w - 1 - i))) % 16))) ∧
  (∀ c : Byte,
    (0x30 ≤ c.toNat → c.toNat ≤ 0x39 → hexval c = some (c.toNat - 0x30)) ∧
    (0x61 ≤ c.toNat → c.toNat ≤ 0x66 → hexval c = some (c.toNat - 0x61 + 10)) ∧
    (0x41 ≤ c.toNat → c.toNat ≤ 0x46 → hexval c = some (c.toNat - 0x41 + 10)) ∧
    (hexval c ≠ none →
      (0x30 ≤ c.toNat ∧ c.toNat ≤ 0x39) ∨ (0x61 ≤ c.toNat ∧ c.toNat ≤ 0x66) ∨
      (0x41 ≤ c.toNat ∧ c.toNat ≤ 0x46))) ∧
  ∀ bytes : List Byte, (∀ c ∈ bytes, (hexval c).isSome = true) →
    hexdec bytes = ∑ i : Fin bytes.length, (hexval bytes[i]).getD 0 * 16 ^ (bytes.length - 1 - i.val)

/-! ### The command word of spec/30_encoding.md -/

/-- R101 to R106: decoding an encoded legal command gives it back, at every operand value. -/
def Obligations.DecodeOfEncode : Prop :=
  ∀ i : Instr, i.wellFormed = true → decode (encode i) = .ok i

/-- R101 to R106: a word the decoder accepts is the encoding of a legal command, so no two words have
one meaning and no bit of a word is dropped. -/
def Obligations.AcceptedWordIsItsEncoding : Prop :=
  ∀ (w : BusWord) (i : Instr), decode w = .ok i → i.wellFormed = true ∧ encode i = w

/-- R103: a word is legal exactly when one row of the opcode table has it and the row's constraint holds;
no two rows overlap. -/
def Obligations.LegalWordsAreTableRows : Prop :=
  (∀ w : BusWord, (∃ i, decode w = .ok i) ↔
    ∃ r ∈ opcodeTable, r.matches w = true ∧ r.mnemonic.constraint w = true) ∧
  opcodeTable.Pairwise (fun r r' => ∀ w : BusWord, ¬ (r.matches w = true ∧ r'.matches w = true))

/-- R111, R113, and the vectors V-E1 and V-E2: words of the spec and what they decode to. -/
def Obligations.SpecWordsDecode : Prop :=
  decode 0x00143310 = .ok (.modadd 3 3 4 .n) ∧
  decode 0x00010212 = .ok (.modmul 2 0 1 .p) ∧
  decode 0x00100116 = .ok (.modinv 1 0 .n) ∧
  decode 0x00301020 = .ok (.pdecomp 0 1 3) ∧
  decode 0x00010221 = .ok (.padd 2 0 1) ∧
  decode 0x00054123 = .ok (.psmul 1 4 5) ∧
  decode 0x0C000030 = .ok (.keygen 192) ∧
  decode 0x00004033 = .ok (.verify 4) ∧
  decode 0x00000000 = .error .unknownOpcode ∧
  decode 0x00200212 = .error .mustBeZeroBit ∧
  decode 0x00000812 = .error .reservedIndex ∧
  decode 0x00000421 = .error .reservedIndex ∧
  decode 0x00005033 = .error .reservedIndex

/-! ### Steps -/

/-- R80, R100: a step at a write of a command's word to `CMD` is `exec` of that command, after which the
write is acknowledged and gone; where `exec` has no next state, the step has none (R28). -/
def Obligations.StepRunsDecodedCommand : Prop :=
  ∀ (s : State) (w : BusWord) (rest : List HostEvent) (i : Instr),
    s.host = .write (s.build.base + 0x00C) 4 w :: rest → s.build.base % 0x800 = 0 → decode w = .ok i →
    step s =
      match exec i s with
      | .next t => .next { t with host := t.host.tail, responses := .ack :: t.responses }
      | .fault f => .fault f
      | .refused r => .refused r

/-- R110, R109 stage 1, R25, R80: a word that is no command, written to `CMD`, raises `IllegalCommand` with
the decoder's `info`, changes nothing but `STATUS`, and leaves the core ready; every value of `op` that R110
lists is such a word, with `info = 0`. -/
def Obligations.IllegalWordRaisesIllegalCommand : Prop :=
  ∀ (s : State) (w : BusWord) (rest : List HostEvent),
    s.host = .write (s.build.base + 0x00C) 4 w :: rest → s.build.base % 0x800 = 0 →
    (∀ e : DecodeError, decode w = .error e →
      step s = .next
        { raised s 8 (match e with | .unknownOpcode => 0 | .mustBeZeroBit => 1 | .reservedIndex => 2) with
          host := rest, responses := .ack :: s.responses }) ∧
    (let op := w.toNat % 256
     (op = 0x00 ∨ (0x03 ≤ op ∧ op ≤ 0x0F) ∨ (0x19 ≤ op ∧ op ≤ 0x1F) ∨ (0x24 ≤ op ∧ op ≤ 0x2F) ∨ 0x36 ≤ op) ↔
       decode w = .error .unknownOpcode)

/-- R76: an access of the wrong width or alignment is answered with a bus error and changes nothing. -/
def Obligations.RefusedAccessOnlyAnswersBusError : Prop :=
  ∀ (s : State) (addr width : Nat) (v : BusWord) (ev : HostEvent) (rest : List HostEvent),
    s.host = ev :: rest → (ev = .read addr width ∨ ev = .write addr width v) →
    s.build.base ≤ addr → addr < s.build.base + 0x800 → (width ≠ 4 ∨ addr % 4 ≠ 0) →
    step s = .next { s with host := rest, responses := .busError :: s.responses }

/-- R77, R80, R81: a read returns the word of the window and has no side effect; a write outside `CMD`
stores, is acknowledged, and leaves the build, the port and the host's later accesses. -/
def Obligations.HostAccessIsServed : Prop :=
  ∀ (s : State) (off : Nat) (v : BusWord) (rest : List HostEvent),
    s.build.base % 0x800 = 0 → off < 0x800 → off % 4 = 0 →
    (s.host = .read (s.build.base + off) 4 :: rest →
      step s = .next { s with host := rest, responses := .data (s.memRead off) :: s.responses }) ∧
    (s.host = .write (s.build.base + off) 4 v :: rest → off ≠ 0x00C →
      step s = .next { s.memWrite off v with host := rest, responses := .ack :: s.responses } ∧
      (s.memWrite off v).build = s.build ∧ (s.memWrite off v).port = s.port)

/-- R250, R52: reset gives every piece of state the value of R52, whatever the core was doing; the build, the
port, the host's later accesses and what it has observed are not state of the core (assumption 8). -/
def Obligations.ResetGivesR52Values : Prop :=
  (∀ (s : State) (rest : List HostEvent), s.host = .reset :: rest →
    ∃ t : State, step s = .next t ∧ t.build = s.build ∧ t.port = s.port ∧ t.host = rest ∧
      t.responses = s.responses ∧ t = { State.resetOf s.build with port := s.port, host := rest, responses := s.responses }) ∧
  ∀ b : Build,
    (let r := State.resetOf b
     r.ctrlWord = 0 ∧ r.status.word = 0 ∧ r.irq = false ∧ r.hlen = 0 ∧ r.siglen = 0 ∧ r.gcpar = 0 ∧ r.nbits = 0 ∧
     r.p = 0 ∧ r.a = 0 ∧ r.b = 0 ∧ r.n = 0 ∧ r.gcx = 0 ∧ r.d = 0 ∧ r.sigr = 0 ∧ r.sigs = 0 ∧
     (∀ i : Fin 8, r.sreg[i] = 0) ∧ (∀ j : Fin 4, r.pt[j] = { x := 0, y := 0, inf := true }) ∧
     r.g = { x := 0, y := 0, inf := true } ∧ (∀ k : Fin 64, r.h[k] = 0) ∧ (∀ k : Fin 128, r.sig[k] = 0)) ∧
    ∃ b', State.reset = State.resetOf b' ∧ b'.Wf

/-! ### The register window of spec/20_memory.md -/

/-- R48: the layout of `STATUS`, with `BUSY` and the reserved bits 0, and the write that clears `DONE`;
R226: the interrupt line in every state, and after the two writes that change it. -/
def Obligations.StatusLayout : Prop :=
  ∀ (s : State) (v : BusWord),
    (s.memRead 0x008).toNat =
      (if s.status.done then 1 else 0) + (if s.status.valid then 2 else 0) +
      (if s.status.locked then 4 else 0) + 256 * s.status.err.toNat + 65536 * s.status.errInfo.toNat ∧
    s.memWrite 0x008 v =
      { s with status := { s.status with done := s.status.done && !v.getLsbD 0 } } ∧
    s.irq = (s.ctrlIe && s.status.done) ∧
    (s.memWrite 0x008 v).irq = (s.ctrlIe && s.status.done && !v.getLsbD 0) ∧
    (s.memWrite 0x004 v).irq = (v.getLsbD 0 && s.status.done)

/-- R71 to R74: which register each offset of the window shows, with the limb order of R74 and the byte
lanes of R73; and a write of a writable location is what the location then reads. -/
def Obligations.WindowReadAfterWrite : Prop :=
  ∀ (s : State) (v : BusWord) (i : Nat), i < 8 →
    (let shown (x : Word) : BusWord := if i < s.build.w / 32 then x.extractLsb' (32 * i) 32 else 0
     s.memRead (0x040 + 4 * i) = shown s.p ∧ s.memRead (0x060 + 4 * i) = shown s.a ∧
     s.memRead (0x080 + 4 * i) = shown s.b ∧ s.memRead (0x0A0 + 4 * i) = shown s.n ∧
     s.memRead (0x0C0 + 4 * i) = shown s.gcx ∧
     (∀ k : Fin 8, s.memRead (0x100 + 0x20 * k.val + 4 * i) = shown s.sreg[k]) ∧
     (∀ j : Fin 4, s.memRead (0x200 + 0x80 * j.val + 4 * i) = shown s.pt[j].x ∧
       s.memRead (0x220 + 0x80 * j.val + 4 * i) = shown s.pt[j].y ∧
       (s.memRead (0x240 + 0x80 * j.val)).toNat = (if s.pt[j].inf then 1 else 0)) ∧
     s.memRead (0x480 + 4 * i) = shown s.sigr ∧ s.memRead (0x4A0 + 4 * i) = shown s.sigs) ∧
    (∀ k : Fin 64, (s.memRead (0x500 + 4 * (k.val / 4))).extractLsb' (8 * (k.val % 4)) 8 = s.h[k]) ∧
    (∀ k : Fin 128, (s.memRead (0x600 + 4 * (k.val / 4))).extractLsb' (8 * (k.val % 4)) 8 = s.sig[k]) ∧
    (s.memRead 0x004).toNat = (if s.ctrlIe then 1 else 0) ∧ s.memRead 0x018 = s.hlen ∧
    s.memRead 0x01C = s.siglen ∧ (s.memRead 0x020).toNat = s.gcpar.toNat ∧
    (let limb := if i < s.build.w / 32 then v else 0
     (∀ k < 8, (s.memWrite (0x100 + 0x20 * k + 4 * i) v).memRead (0x100 + 0x20 * k + 4 * i) = limb) ∧
     (∀ j < 4, (s.memWrite (0x200 + 0x80 * j + 4 * i) v).memRead (0x200 + 0x80 * j + 4 * i) = limb) ∧
     (∀ j < 4, (s.memWrite (0x220 + 0x80 * j + 4 * i) v).memRead (0x220 + 0x80 * j + 4 * i) = limb) ∧
     (s.memWrite (0x480 + 4 * i) v).memRead (0x480 + 4 * i) = limb ∧
     (s.memWrite (0x4A0 + 4 * i) v).memRead (0x4A0 + 4 * i) = limb ∧
     (s.status.locked = false →
       ∀ o ∈ [0x040, 0x060, 0x080, 0x0A0, 0x0C0], (s.memWrite (o + 4 * i) v).memRead (o + 4 * i) = limb) ∧
     (i < s.build.w / 32 → (s.memWrite (0x0E0 + 4 * i) v).d.extractLsb' (32 * i) 32 = v)) ∧
    (∀ j < 4, (s.memWrite (0x240 + 0x80 * j) v).memRead (0x240 + 0x80 * j) = v &&& 1) ∧
    (∀ k < 16, (s.memWrite (0x500 + 4 * k) v).memRead (0x500 + 4 * k) = v) ∧
    (∀ k < 32, (s.memWrite (0x600 + 4 * k) v).memRead (0x600 + 4 * k) = v) ∧
    (s.memWrite 0x01C v).memRead 0x01C = v ∧
    (s.memWrite 0x004 v).memRead 0x004 = v &&& 1 ∧
    (s.status.locked = false →
      (s.memWrite 0x018 v).memRead 0x018 = v ∧ (s.memWrite 0x020 v).memRead 0x020 = v &&& 0xFF)

/-- R54, R74, R77: a write changes what no other word of the window reads, and of the key, which no read
shows, at most the written limb. -/
def Obligations.WindowWriteLeavesOtherWords : Prop :=
  ∀ (s : State) (v : BusWord) (off off' : Nat),
    off < 0x800 → off' < 0x800 → off % 4 = 0 → off' % 4 = 0 → off ≠ off' →
    (s.memWrite off v).memRead off' = s.memRead off' ∧
    ((off < 0x0E0 ∨ 0x100 ≤ off) → (s.memWrite off v).d = s.d) ∧
    ∀ i < 8, off ≠ 0x0E0 + 4 * i → (s.memWrite off v).d.extractLsb' (32 * i) 32 = s.d.extractLsb' (32 * i) 32

/-- R31, R40, R42, R43, R49, R51, R71, R72: what the fixed, read-only and write-only registers read; reserved
offsets read 0 and ignore writes; writes to read-only registers, and to the parameters of a locked core,
are ignored. -/
def Obligations.FixedAndReservedWords : Prop :=
  ∀ (s : State) (v : BusWord) (off : Nat), off % 4 = 0 →
    (s.memRead 0x000 = 0x4D5A4907 ∧ s.memRead 0x00C = 0 ∧ s.memRead 0x010 = BitVec.ofNat 32 s.build.w ∧
      s.memRead 0x014 = s.nbits ∧ s.memRead 0x024 = s.build.drawLimit ∧
      (∀ i < 8, s.memRead (0x0E0 + 4 * i) = 0 ∧
        s.memRead (0x400 + 4 * i) = (if i < s.build.w / 32 then s.g.x.extractLsb' (32 * i) 32 else 0) ∧
        s.memRead (0x420 + 4 * i) = (if i < s.build.w / 32 then s.g.y.extractLsb' (32 * i) 32 else 0)) ∧
      (s.memRead 0x440).toNat = (if s.g.inf then 1 else 0)) ∧
    (((0x028 ≤ off ∧ off ≤ 0x03F) ∨ (∃ j < 4, 0x244 + 0x80 * j ≤ off ∧ off ≤ 0x27F + 0x80 * j) ∨
       (0x444 ≤ off ∧ off ≤ 0x47F) ∨ (0x4C0 ≤ off ∧ off ≤ 0x4FF) ∨ (0x540 ≤ off ∧ off ≤ 0x5FF) ∨
       (0x680 ≤ off ∧ off ≤ 0x7FF)) →
      s.memRead off = 0 ∧ s.memWrite off v = s) ∧
    ((off = 0x000 ∨ off = 0x010 ∨ off = 0x014 ∨ off = 0x024 ∨ (0x400 ≤ off ∧ off ≤ 0x440)) →
      s.memWrite off v = s) ∧
    (s.status.locked = true → (off = 0x018 ∨ off = 0x020 ∨ (0x040 ≤ off ∧ off ≤ 0x0DF)) →
      s.memWrite off v = s)

/-- R43: no read of the window depends on the private key. -/
def Obligations.HostReadsRevealNothingOfD : Prop :=
  ∀ (s : State) (d' : Word) (off : Nat), ({ s with d := d' } : State).memRead off = s.memRead off

/-! ### What every command does -/

/-- R28, R230: every command answers a next state, but for `KEYGEN` and `SIGN`, which either do or have none
(the model's fault for that is a DESIGN CHOICE, assumption 6), and which do as soon as a lined-up draw ends their loop. -/
def Obligations.EveryCommandHasNextStateOrHangs : Prop :=
  (∀ (i : Instr) (s : State), i ≠ .sign → (∀ bits, i ≠ .keygen bits) → ∃ t, exec i s = .next t) ∧
  (∀ (i : Instr) (s : State), (∃ t, exec i s = .next t) ∨ exec i s = .fault .endlessRetry) ∧
  (∀ (s : State) (bits : BitVec 12),
    (∃ z ∈ s.port.queue, 1 ≤ z.toNat % 2 ^ bits.toNat ∧ z.toNat % 2 ^ bits.toNat ≤ s.n.toNat - 1) →
    ∃ t, exec (.keygen bits) s = .next t) ∧
  ∀ s : State, (∃ z ∈ s.port.queue, ¬ SignRoundFails s (z.toNat % 2 ^ s.nbits.toNat)) →
    ∃ t, exec .sign s = .next t

/-- R130, R48, R226: a completed command sets `DONE`, so that `irq` follows `IE`; `VALID` only after an
accepting `VERIFY`, and never with an error; `LOCKED` is set by `INIT` alone and cleared by none. -/
def Obligations.CompletedCommandWritesStatus : Prop :=
  ∀ (i : Instr) (s t : State), exec i s = .next t →
    t.status.done = true ∧ t.irq = s.ctrlIe ∧
    (t.status.valid = true → (∃ ra, i = .verify ra) ∧ t.status.err = 0 ∧ t.status.errInfo = 0) ∧
    (t.status.locked ≠ s.status.locked → i = .init ∧ s.status.locked = false ∧ t.status.err = 0)

/-- R25, R230: a command that reports an error changes nothing but `STATUS` (the draws it took are gone
from the port, which is no register). -/
def Obligations.ErrorChangesOnlyStatus : Prop :=
  ∀ (i : Instr) (s t : State), exec i s = .next t → t.status.err ≠ 0 →
    t = { raised s t.status.err t.status.errInfo with port := t.port }

/-- R30 (column "written by commands"), R42, R51: what each command may change; everything else stays. -/
def Obligations.CommandWriteSets : Prop :=
  ∀ (i : Instr) (s t : State), exec i s = .next t →
    (t.build = s.build ∧ t.ctrlIe = s.ctrlIe ∧ t.hlen = s.hlen ∧ t.gcpar = s.gcpar ∧ t.p = s.p ∧ t.a = s.a ∧
      t.b = s.b ∧ t.n = s.n ∧ t.gcx = s.gcx ∧ t.host = s.host ∧ t.responses = s.responses) ∧
    ((t.g ≠ s.g ∨ t.nbits ≠ s.nbits ∨ t.status.locked ≠ s.status.locked) → i = .init) ∧
    (t.d ≠ s.d → i = .zeroize ∨ ∃ bits, i = .keygen bits) ∧
    (t.h ≠ s.h → i = .zeroize) ∧
    ((t.sig ≠ s.sig ∨ t.siglen ≠ s.siglen) → i = .zeroize ∨ i = .sign ∨ i = .sigenc) ∧
    ((t.sigr ≠ s.sigr ∨ t.sigs ≠ s.sigs) → i = .zeroize ∨ i = .sign ∨ i = .sigdec) ∧
    (∀ k : Fin 8, t.sreg[k] ≠ s.sreg[k] → i = .zeroize ∨ scalarDest i = some k) ∧
    (∀ j : Fin 4, t.pt[j] ≠ s.pt[j] → i = .zeroize ∨ pointDest i = some j) ∧
    (t.port ≠ s.port →
      i = .init ∨ i = .sign ∨ (∃ bits, i = .keygen bits) ∨ (∃ rd ra m, i = .modsqrt rd ra m) ∨
      ∃ rd ra par, i = .pdecomp rd ra par)

/-- R109 stage 2, R51, R220: on an unlocked core every legal command but `INIT` and `ZEROIZE` raises
`NotInitialised`; on a locked one `INIT` raises `AlreadyInitialised`. -/
def Obligations.LockStageErrors : Prop :=
  ∀ (i : Instr) (s : State), i.wellFormed = true →
    (s.status.locked = false → i ≠ .init → i ≠ .zeroize → exec i s = .next (raised s 9 0)) ∧
    (s.status.locked = true → i = .init → exec i s = .next (raised s 12 0))

/-- R28: no next state means a retry loop of `KEYGEN` or `SIGN`, past its operand checks, that no lined-up
draw ends; and where no answer of the port ends it, there is no next state.  That the model gives this as
the fault `endlessRetry` is a DESIGN CHOICE (assumption 6). -/
def Obligations.UnfinishedCommandIsRetryLoop : Prop :=
  (∀ (i : Instr) (s : State), (∀ t, exec i s ≠ .next t) →
    exec i s = .fault .endlessRetry ∧ s.status.locked = true ∧
    ((i = .sign ∧ 1 ≤ s.d.toNat ∧ s.d.toNat < s.n.toNat ∧ InRange s s.g ∧
        ∀ z ∈ s.port.queue, SignRoundFails s (z.toNat % 2 ^ s.nbits.toNat)) ∨
      ∃ bits, i = .keygen bits ∧ 1 ≤ bits.toNat ∧ bits.toNat ≤ s.build.w ∧
        ∀ z ∈ s.port.queue, z.toNat % 2 ^ bits.toNat = 0 ∨ s.n.toNat ≤ z.toNat % 2 ^ bits.toNat)) ∧
  (∀ (s : State) (bits : BitVec 12), s.status.locked = true → 1 ≤ bits.toNat → bits.toNat ≤ s.build.w →
    (∀ z : Word, z ∈ s.port.queue ∨ (∃ m, z = Config.freeDraw m) →
      z.toNat % 2 ^ bits.toNat = 0 ∨ s.n.toNat ≤ z.toNat % 2 ^ bits.toNat) →
    exec (.keygen bits) s = .fault .endlessRetry) ∧
  ∀ s : State, s.status.locked = true → 1 ≤ s.d.toNat → s.d.toNat < s.n.toNat → InRange s s.g →
    (∀ z : Word, z ∈ s.port.queue ∨ (∃ m, z = Config.freeDraw m) →
      SignRoundFails s (z.toNat % 2 ^ s.nbits.toNat)) →
    exec .sign s = .fault .endlessRetry

/-! ### INIT and ZEROIZE -/

/-- R131: `INIT` reports the first of its seven checks that fails, and writes nothing but `STATUS`; when none
fails, `InvalidPoint(0)`, without a draw, where the right side of the generator's equation fails the Euler
test, and `InvalidPoint(1)` after `SQRT_DRAW_LIMIT` draws none of which is usable (R170, R163). -/
def Obligations.InitReportsFirstFailedCheck : Prop :=
  ∀ s : State, s.status.locked = false →
    (let p := s.p.toNat
     let a := s.a.toNat
     let b := s.b.toNat
     let n := s.n.toNat
     let fails (k : Nat) : Prop :=
       match k with
       | 1 => p % 2 = 0 ∨ p < 5
       | 2 => p ≤ a ∨ p ≤ b
       | 3 => (4 * a * a * a + 27 * b * b) % p = 0
       | 4 => n % 2 = 0 ∨ n < 3
       | 5 => bitlength n % 4 ≠ 0
       | 6 => p ≤ s.gcx.toNat
       | 7 => s.hlen.toNat < 1 ∨ 64 < s.hlen.toNat
       | _ => False
     let rhs := curveRhs p a b s.gcx.toNat
     let limit := s.build.drawLimit.toNat
     (∀ k : Nat, 1 ≤ k → k ≤ 7 → fails k → (∀ l, 1 ≤ l → l < k → ¬ fails l) →
       exec .init s = .next (raised s 11 (BitVec.ofNat 8 k))) ∧
     ((∀ k, 1 ≤ k → k ≤ 7 → ¬ fails k) → rhs ≠ 0 →
       (rhs ^ ((p - 1) / 2) % p ≠ 1 → exec .init s = .next (raised s 5 0)) ∧
       (rhs ^ ((p - 1) / 2) % p = 1 → NoneUsable p limit s.port →
         exec .init s = .next { raised s 5 1 with port := spent s.port limit })))

/-- R131, R170: `INIT` on parameters that pass its checks, with `P` prime, a decompressible generator and
a usable draw lined up, derives `G` on the curve with the wanted parity, sets `NBITS` and locks, having
spent the draws up to the first usable one (R163). -/
def Obligations.InitDerivesGeneratorAndLocks : Prop :=
  ∀ s : State, s.status.locked = false → Nat.Prime s.p.toNat → 5 ≤ s.p.toNat →
    s.a.toNat < s.p.toNat → s.b.toNat < s.p.toNat →
    (4 * s.a.toNat ^ 3 + 27 * s.b.toNat ^ 2) % s.p.toNat ≠ 0 →
    s.n.toNat % 2 = 1 → 3 ≤ s.n.toNat → bitlength s.n.toNat % 4 = 0 →
    s.gcx.toNat < s.p.toNat → 1 ≤ s.hlen.toNat → s.hlen.toNat ≤ 64 →
    (∃ r, r * r % s.p.toNat = curveRhs s.p.toNat s.a.toNat s.b.toNat s.gcx.toNat) →
    (curveRhs s.p.toNat s.a.toNat s.b.toNat s.gcx.toNat = 0 ∨
      SamplerSucceeds s.p.toNat s.build.drawLimit.toNat s.port) →
    ∃ (t : State) (y : Word),
      exec .init s = .next t ∧
      t = { s with
            g := { x := s.gcx, y := y, inf := false }
            nbits := BitVec.ofNat 32 (bitlength s.n.toNat)
            status := okStatus true
            port := t.port } ∧
      y.toNat < s.p.toNat ∧
      OnCurve s.p.toNat s.a.toNat s.b.toNat (.finite s.gcx.toNat y.toNat) ∧
      (y.toNat ≠ 0 → y.toNat % 2 = s.gcpar.toNat % 2) ∧
      SolverDraws s.p.toNat s.build.drawLimit.toNat
        (curveRhs s.p.toNat s.a.toNat s.b.toNat s.gcx.toNat) s.port t.port

/-- R133: `ZEROIZE` clears the key, the working registers and the buffers, in either phase, and nothing
else; twice is the same as once. -/
def Obligations.ZeroizeClearsWorkingState : Prop :=
  ∀ s : State,
    ∃ t : State, exec .zeroize s = .next t ∧
      t = { s with
            d := 0, sigr := 0, sigs := 0, siglen := 0
            sreg := t.sreg, pt := t.pt, h := t.h, sig := t.sig
            status := okStatus s.status.locked } ∧
      (∀ i : Fin 8, t.sreg[i] = 0) ∧ (∀ j : Fin 4, t.pt[j] = { x := 0, y := 0, inf := true }) ∧
      (∀ k : Fin 64, t.h[k] = 0) ∧ (∀ k : Fin 128, t.sig[k] = 0) ∧
      exec .zeroize t = .next t

/-! ### Field commands -/

/-- R144, R145, R146, R148, R140: sum, difference, product and reduction on mathematical integers, for
every form; the result is the residue, and `S[rd]` and `STATUS` are all that changes. -/
def Obligations.FieldArithmeticResults : Prop :=
  ∀ (s : State) (rd ra rb : Fin 8) (m : ModSel), s.status.locked = true →
    (let modulus := (match m with | .p => s.p | .n => s.n).toNat
     let x := s.sreg[ra].toNat
     let y := s.sreg[rb].toNat
     0 < modulus →
     (∃ t, exec (.modadd rd ra rb m) s = .next t ∧ ScalarWritten s t rd ((x + y) % modulus) ∧ t.port = s.port) ∧
     (∃ t, exec (.modsub rd ra rb m) s = .next t ∧ t.port = s.port ∧
       ScalarWritten s t rd (((x : Int) - (y : Int)) % (modulus : Int)).toNat) ∧
     (∃ t, exec (.modmul rd ra rb m) s = .next t ∧ ScalarWritten s t rd (x * y % modulus) ∧ t.port = s.port) ∧
     (∃ t, exec (.modred rd ra m) s = .next t ∧ ScalarWritten s t rd (x % modulus) ∧ t.port = s.port))

/-- R149, R151: the power with the unreduced exponent, and the Euler power. -/
def Obligations.FieldPowerResults : Prop :=
  ∀ (s : State) (rd ra rb : Fin 8) (m : ModSel), s.status.locked = true →
    (let modulus := (match m with | .p => s.p | .n => s.n).toNat
     let x := s.sreg[ra].toNat
     let y := s.sreg[rb].toNat
     2 ≤ modulus →
     (∃ t, exec (.modexp rd ra rb m) s = .next t ∧ ScalarWritten s t rd (x ^ y % modulus) ∧ t.port = s.port) ∧
     (∃ t, exec (.legendre rd ra m) s = .next t ∧ t.port = s.port ∧
       ScalarWritten s t rd (x ^ ((modulus - 1) / 2) % modulus)))

/-- R150: the inverse where it exists, and `NoModularInverse(0)` with nothing written where it does not. -/
def Obligations.ModinvResults : Prop :=
  ∀ (s : State) (rd ra : Fin 8) (m : ModSel), s.status.locked = true →
    (let modulus := (match m with | .p => s.p | .n => s.n).toNat
     let x := s.sreg[ra].toNat
     2 ≤ modulus →
     (Nat.gcd (x % modulus) modulus = 1 →
       ∃ t v, exec (.modinv rd ra m) s = .next t ∧ ScalarWritten s t rd v ∧ t.port = s.port ∧
         1 ≤ v ∧ v ≤ modulus - 1 ∧ x * v % modulus = 1) ∧
     (Nat.gcd (x % modulus) modulus ≠ 1 → exec (.modinv rd ra m) s = .next (raised s 2 0)))

/-- R147, R143: the Montgomery product, the residue whose `2 ^ W`-fold is the product. -/
def Obligations.MontgomeryProductResult : Prop :=
  ∀ (s : State) (rd ra rb : Fin 8) (m : ModSel), s.status.locked = true →
    (let modulus := (match m with | .p => s.p | .n => s.n).toNat
     3 ≤ modulus → modulus % 2 = 1 →
     ∃ t v, exec (.mmul rd ra rb m) s = .next t ∧ ScalarWritten s t rd v ∧ t.port = s.port ∧
       v < modulus ∧ v * 2 ^ s.build.w % modulus = s.sreg[ra].toNat * s.sreg[rb].toNat % modulus)

/-! ### The square-root solver -/

/-- R160, R165, R166: for a prime modulus and a residue, with a usable draw lined up, `MODSQRT` completes
with a root, having spent the draws up to the first usable one (R163).  Which root is left open. -/
def Obligations.ModsqrtReturnsRoot : Prop :=
  ∀ (s : State) (rd ra : Fin 8) (m : ModSel), s.status.locked = true →
    (let modulus := (match m with | .p => s.p | .n => s.n).toNat
     let x := s.sreg[ra].toNat
     Nat.Prime modulus → 5 ≤ modulus → (∃ r, r * r % modulus = x % modulus) →
     (x % modulus = 0 ∨ SamplerSucceeds modulus s.build.drawLimit.toNat s.port) →
     ∃ t v, exec (.modsqrt rd ra m) s = .next t ∧ ScalarWritten s t rd v ∧
       v < modulus ∧ v * v % modulus = x % modulus ∧ (x % modulus = 0 → v = 0) ∧
       SolverDraws modulus s.build.drawLimit.toNat (x % modulus) s.port t.port)

/-- R161, R163, R166: `NonResidue(0)` before any draw when the Euler test fails; `NonResidue(1)` after
`SQRT_DRAW_LIMIT` draws none of which is usable. -/
def Obligations.ModsqrtErrors : Prop :=
  ∀ (s : State) (rd ra : Fin 8) (m : ModSel), s.status.locked = true →
    (let modulus := (match m with | .p => s.p | .n => s.n).toNat
     let x := s.sreg[ra].toNat
     let limit := s.build.drawLimit.toNat
     5 ≤ modulus → x % modulus ≠ 0 →
     ((x % modulus) ^ ((modulus - 1) / 2) % modulus ≠ 1 →
       exec (.modsqrt rd ra m) s = .next (raised s 3 0)) ∧
     ((x % modulus) ^ ((modulus - 1) / 2) % modulus = 1 → NoneUsable modulus limit s.port →
       exec (.modsqrt rd ra m) s = .next { raised s 3 1 with port := spent s.port limit }))

/-! ### Point commands -/

/-- R173, R174: the degenerate cases of the group law, the two formulas, and the error where an inverse
they need does not exist. -/
def Obligations.PointLawRouting : Prop :=
  ∀ (p a x1 y1 x2 y2 : Nat) (q : Point), 2 ≤ p →
    add p a .infinity q = .ok q ∧ add p a q .infinity = .ok q ∧
    double p a .infinity = .ok .infinity ∧ double p a (.finite x1 0) = .ok .infinity ∧
    (y1 ≠ y2 → add p a (.finite x1 y1) (.finite x1 y2) = .ok .infinity) ∧
    add p a (.finite x1 y1) (.finite x1 y1) = double p a (.finite x1 y1) ∧
    (x1 ≠ x2 → ∀ v : Nat, inverse (((x2 : Int) - x1) % p).toNat p = some v →
      ∃ x3 y3 : Nat, add p a (.finite x1 y1) (.finite x2 y2) = .ok (.finite x3 y3) ∧
        (let lam : Int := (((y2 : Int) - y1) * v) % p
         x3 = ((lam * lam - x1 - x2) % p).toNat ∧ y3 = ((lam * ((x1 : Int) - x3) - y1) % p).toNat)) ∧
    (x1 ≠ x2 → inverse (((x2 : Int) - x1) % p).toNat p = none →
      add p a (.finite x1 y1) (.finite x2 y2) = .error { kind := .noModularInverse, info := 0 }) ∧
    (y1 ≠ 0 → inverse (2 * y1 % p) p = none →
      double p a (.finite x1 y1) = .error { kind := .noModularInverse, info := 0 }) ∧
    (y1 ≠ 0 → ∀ v : Nat, inverse (2 * y1 % p) p = some v →
      ∃ x3 y3 : Nat, double p a (.finite x1 y1) = .ok (.finite x3 y3) ∧
        (let lam : Int := ((3 * (x1 : Int) * x1 + a) * v) % p
         x3 = ((lam * lam - x1 - x1) % p).toNat ∧ y3 = ((lam * ((x1 : Int) - x3) - y1) % p).toNat))

/-- R176: for prime `P`, adding or doubling points in range and on the curve gives one. -/
def Obligations.PointLawClosure : Prop :=
  ∀ (p a b : Nat) (p1 p2 : Point), Nat.Prime p → 5 ≤ p →
    PointInRange p p1 → PointInRange p p2 → OnCurve p a b p1 → OnCurve p a b p2 →
    ∃ c c', add p a p1 p2 = .ok c ∧ PointInRange p c ∧ OnCurve p a b c ∧
      double p a p1 = .ok c' ∧ PointInRange p c' ∧ OnCurve p a b c'

/-- R176: for prime `P`, addition of points in range is commutative. -/
def Obligations.PointAdditionCommutes : Prop :=
  ∀ (p a : Nat) (p1 p2 : Point), Nat.Prime p → 5 ≤ p → PointInRange p p1 → PointInRange p p2 →
    add p a p1 p2 = add p a p2 p1

/-- R175, R177, R179, R181: with prime `P` and operands in range, `PADD`, `PDBL` and `PSMUL` complete:
the operand's sum, double or multiple is in `PT[rd]` and nothing else but `STATUS` has changed. -/
def Obligations.PointCommandsComplete : Prop :=
  ∀ (s : State) (rd : Fin 4) (ra rb : BitVec 4) (k : Fin 8) (qa qb : PointReg),
    s.status.locked = true → Nat.Prime s.p.toNat → 5 ≤ s.p.toNat →
    s.pointSource ra = some qa → s.pointSource rb = some qb → InRange s qa → InRange s qb →
    (∃ t c, exec (.padd rd ra rb) s = .next t ∧ PointWritten s t rd c ∧ t.port = s.port ∧
      add s.p.toNat s.a.toNat qa.value qb.value = .ok c) ∧
    (∃ t c, exec (.pdbl rd ra) s = .next t ∧ PointWritten s t rd c ∧ t.port = s.port ∧
      double s.p.toNat s.a.toNat qa.value = .ok c) ∧
    (∃ t c, exec (.psmul rd ra k) s = .next t ∧ PointWritten s t rd c ∧ t.port = s.port ∧
      scalarMul s.p.toNat s.a.toNat s.sreg[k].toNat qa.value = .ok c)

/-- R107, R105: the registers a point source index names.  That `exec` itself, in every state, raises
`IllegalCommand(2)` for a reserved one is the model's choice (assumption 11, DESIGN CHOICE): a decoded command
never has one. -/
def Obligations.PointSourceNamesRegister : Prop :=
  ∀ (s : State) (j : BitVec 4),
    (∀ i : Fin 4, j.toNat = i.val → s.pointSource j = some s.pt[i]) ∧
    (j.toNat = 4 → s.pointSource j = some s.g) ∧
    (5 ≤ j.toNat → s.pointSource j = none ∧ ∀ rd : Fin 4, exec (.pdbl rd j) s = .next (raised s 8 2))

/-- R171, R220: a finite operand with a coordinate `>= P` raises `OperandRange(2)` and writes nothing. -/
def Obligations.PointOperandOutOfRange : Prop :=
  ∀ (s : State) (rd : Fin 4) (ra rb : BitVec 4) (k : Fin 8) (qa qb : PointReg),
    s.status.locked = true → s.pointSource ra = some qa → s.pointSource rb = some qb → ¬ InRange s qa →
    exec (.padd rd ra rb) s = .next (raised s 10 2) ∧ exec (.padd rd rb ra) s = .next (raised s 10 2) ∧
    exec (.pdbl rd ra) s = .next (raised s 10 2) ∧ exec (.psmul rd ra k) s = .next (raised s 10 2)

/-- R177: `pdbl ptd, pa` and `padd ptd, pa, pa` give the same result for every operand. -/
def Obligations.DoublingIsSelfAddition : Prop :=
  ∀ (s : State) (rd : Fin 4) (ra : BitVec 4), exec (.pdbl rd ra) s = exec (.padd rd ra ra) s

/-- R178: double-and-add, least significant bit first, from the identity and the unreduced scalar, for every
modulus: the one function that obeys the rounds of the rule's loop.  For prime `P`, the scalars 0, 1 and 2
and the identity, and that no scalar fails. -/
def Obligations.ScalarMulSmallCases : Prop :=
  (∀ p a : Nat, ∃ run : Nat → Point → Point → Except CmdError Point,
    (∀ acc addend, run 0 acc addend = .ok acc) ∧
    (∀ k acc addend, 0 < k →
      run k acc addend =
        match (if k % 2 = 1 then add p a acc addend else .ok acc), double p a addend with
        | .error e, _ => .error e
        | .ok _, .error e => .error e
        | .ok acc', .ok addend' => run (k / 2) acc' addend') ∧
    ∀ k q, scalarMul p a k q = run k .infinity q) ∧
  ∀ (p a : Nat) (q : Point), Nat.Prime p → 5 ≤ p → PointInRange p q →
    scalarMul p a 0 q = .ok .infinity ∧ scalarMul p a 1 q = .ok q ∧
    (∀ k, scalarMul p a k .infinity = .ok .infinity) ∧ scalarMul p a 2 q = double p a q ∧
    ∀ k, ∃ c, scalarMul p a k q = .ok c ∧ PointInRange p c

/-- R172, R170: `PDECOMP` of an x-coordinate below a prime `P` whose right side is a residue, with a
usable draw lined up, writes the point on the curve with the wanted parity, whichever root was drawn, and
spends the draws up to the first usable one (R163). -/
def Obligations.PdecompWritesCurvePoint : Prop :=
  ∀ (s : State) (rd : Fin 4) (ra : Fin 8) (par : Byte), s.status.locked = true →
    (let p := s.p.toNat
     let x := s.sreg[ra].toNat
     Nat.Prime p → 5 ≤ p → x < p → (∃ r, r * r % p = curveRhs p s.a.toNat s.b.toNat x) →
     (curveRhs p s.a.toNat s.b.toNat x = 0 ∨ SamplerSucceeds p s.build.drawLimit.toNat s.port) →
     ∃ t y, exec (.pdecomp rd ra par) s = .next t ∧ PointWritten s t rd (.finite x y) ∧ y < p ∧
       OnCurve p s.a.toNat s.b.toNat (.finite x y) ∧ (y ≠ 0 → y % 2 = par.toNat % 2) ∧
       (∀ y' < p, OnCurve p s.a.toNat s.b.toNat (.finite x y') → (y' ≠ 0 → y' % 2 = par.toNat % 2) → y' = y) ∧
       SolverDraws p s.build.drawLimit.toNat (curveRhs p s.a.toNat s.b.toNat x) s.port t.port)

/-- R172, R170, R163: `OperandRange(1)` for `x >= P`; `InvalidPoint(0)`, without a draw, when the right side
fails the Euler test; `InvalidPoint(1)` after `SQRT_DRAW_LIMIT` draws none of which is usable. -/
def Obligations.PdecompErrors : Prop :=
  ∀ (s : State) (rd : Fin 4) (ra : Fin 8) (par : Byte), s.status.locked = true →
    (let p := s.p.toNat
     let x := s.sreg[ra].toNat
     let rhs := curveRhs p s.a.toNat s.b.toNat x
     let limit := s.build.drawLimit.toNat
     (p ≤ x → exec (.pdecomp rd ra par) s = .next (raised s 10 1)) ∧
     (x < p → 5 ≤ p → rhs ≠ 0 → rhs ^ ((p - 1) / 2) % p ≠ 1 →
       exec (.pdecomp rd ra par) s = .next (raised s 5 0)) ∧
     (x < p → 5 ≤ p → rhs ≠ 0 → rhs ^ ((p - 1) / 2) % p = 1 → NoneUsable p limit s.port →
       exec (.pdecomp rd ra par) s = .next { raised s 5 1 with port := spent s.port limit }))

/-! ### Keys and signatures -/

/-- R190: `KEYGEN` takes the first draw in `[1, N − 1]`; draws before it are spent. -/
def Obligations.KeygenTakesFirstDrawInRange : Prop :=
  ∀ (s : State) (bits : BitVec 12) (before rest : List Word) (v : Word),
    s.status.locked = true → 1 ≤ bits.toNat → bits.toNat ≤ s.build.w →
    s.port.queue = before ++ v :: rest →
    (∀ z ∈ before, z.toNat % 2 ^ bits.toNat = 0 ∨ s.n.toNat ≤ z.toNat % 2 ^ bits.toNat) →
    1 ≤ v.toNat % 2 ^ bits.toNat → v.toNat % 2 ^ bits.toNat ≤ s.n.toNat - 1 →
    ∃ t, exec (.keygen bits) s = .next t ∧ t.d.toNat = v.toNat % 2 ^ bits.toNat ∧
      t = { s with
            d := t.d
            port := { queue := rest, taken := s.port.taken + before.length + 1 }
            status := okStatus true }

/-- R190, R194, R196, R220: `OperandRange(4)` for a bit count outside `[1, W]`; `OperandRange(3)` of
`PUBKEY` and `SIGN` for a key outside `[1, N − 1]`. -/
def Obligations.KeyRangeErrors : Prop :=
  ∀ (s : State) (bits : BitVec 12) (rd : Fin 4), s.status.locked = true →
    ((bits.toNat < 1 ∨ s.build.w < bits.toNat) → exec (.keygen bits) s = .next (raised s 10 4)) ∧
    ((s.d.toNat = 0 ∨ s.n.toNat ≤ s.d.toNat) →
      exec (.pubkey rd) s = .next (raised s 10 3) ∧ exec .sign s = .next (raised s 10 3))

/-- R194: `PUBKEY` writes `D·G`, for prime `P` and a key in range. -/
def Obligations.PubkeyWritesMultiple : Prop :=
  ∀ (s : State) (rd : Fin 4), s.status.locked = true → Nat.Prime s.p.toNat → 5 ≤ s.p.toNat →
    1 ≤ s.d.toNat → s.d.toNat < s.n.toNat → InRange s s.g →
    ∃ t c, exec (.pubkey rd) s = .next t ∧ PointWritten s t rd c ∧ t.port = s.port ∧
      scalarMul s.p.toNat s.a.toNat s.d.toNat s.g.value = .ok c

/-- R192, R16: the digest, read big-endian, as an integer in `[1, N − 1]`; bytes at and beyond `HLEN` do not enter it. -/
def Obligations.DigestReduction : Prop :=
  ∀ s : State, 2 ≤ s.n.toNat →
    (let bytes := s.h.toList.take s.hlen.toNat
     let v := ∑ i : Fin bytes.length, bytes[i].toNat * 256 ^ (bytes.length - 1 - i.val)
     (v % s.n.toNat ≠ 0 → s.digestToE = v % s.n.toNat) ∧ (v % s.n.toNat = 0 → s.digestToE = 1)) ∧
    1 ≤ s.digestToE ∧ s.digestToE ≤ s.n.toNat - 1 ∧
    ∀ h' : Vector Byte 64, (∀ k : Fin 64, k.val < s.hlen.toNat → h'[k] = s.h[k]) →
      ({ s with h := h' } : State).digestToE = s.digestToE

/-- R196, R198: `SIGN` takes the first draw that gives non-zero components and writes them, as integers
and as the string; bytes of `SIG` beyond the string stay. -/
def Obligations.SignWritesFirstGoodSignature : Prop :=
  ∀ (s : State) (before rest : List Word) (v : Word) (x y : Nat),
    s.status.locked = true → 1 ≤ s.d.toNat → s.d.toNat < s.n.toNat → InRange s s.g → s.hexw ≤ 64 →
    (let k := v.toNat % 2 ^ s.nbits.toNat
     let n := s.n.toNat
     let r := x % n
     let sv := (r * s.d.toNat + k * s.digestToE) % n
     s.port.queue = before ++ v :: rest →
     (∀ z ∈ before, SignRoundFails s (z.toNat % 2 ^ s.nbits.toNat)) →
     1 ≤ k → k ≤ n - 1 → s.mulPoint k s.g.value = .ok (.finite x y) → r ≠ 0 → sv ≠ 0 →
     ∃ t, exec .sign s = .next t ∧ t.sigr.toNat = r ∧ t.sigs.toNat = sv ∧
       t.sig.toList = hexenc r s.hexw ++ hexenc sv s.hexw ++ s.sig.toList.drop (2 * s.hexw) ∧
       t = { s with
             sigr := t.sigr, sigs := t.sigs, sig := t.sig
             siglen := BitVec.ofNat 32 (2 * s.hexw)
             port := { queue := rest, taken := s.port.taken + before.length + 1 }
             status := okStatus true })

/-- R200, R201: with prime moduli and the operands in range, `VERIFY` completes without an error, writes
`STATUS` only, and accepts exactly when `C = z1·G + z2·Q` is finite with `C.x mod N = r`. -/
def Obligations.VerifyVerdict : Prop :=
  ∀ (s : State) (ra : BitVec 4) (q : PointReg), s.status.locked = true →
    Nat.Prime s.p.toNat → 5 ≤ s.p.toNat → Nat.Prime s.n.toNat →
    s.pointSource ra = some q → InRange s q → InRange s s.g → StringWellFormed s →
    (let n := s.n.toNat
     let r := hexdec ((sigField s).take s.hexw)
     let sv := hexdec ((sigField s).drop s.hexw)
     1 ≤ r → r < n → 1 ≤ sv → sv < n →
     ∃ (t : State) (v : Nat) (c1 c2 c : Point),
       exec (.verify ra) s = .next t ∧
       s.digestToE * v % n = 1 ∧
       s.mulPoint (sv * v % n) s.g.value = .ok c1 ∧
       s.mulPoint ((n - r * v % n) % n) q.value = .ok c2 ∧
       s.addPoints c1 c2 = .ok c ∧
       t = { s with
             status := { done := true, valid := t.status.valid, locked := true, err := 0, errInfo := 0 } } ∧
       (t.status.valid = true ↔ ∃ x y, c = .finite x y ∧ x % n = r))

/-- R199, R200, R201, R228: the named rejections of `VERIFY` in their order: length, characters, `r`, `s`,
the range of `Q`. -/
def Obligations.VerifyRejections : Prop :=
  ∀ (s : State) (ra : BitVec 4) (q : PointReg), s.status.locked = true → s.pointSource ra = some q →
    (let n := s.n.toNat
     let r := hexdec ((sigField s).take s.hexw)
     let sv := hexdec ((sigField s).drop s.hexw)
     (s.siglen.toNat ≠ 2 * s.hexw → exec (.verify ra) s = .next (raised s 4 1)) ∧
     (s.siglen.toNat = 2 * s.hexw → (∃ c ∈ sigField s, hexval c = none) →
       exec (.verify ra) s = .next (raised s 4 2)) ∧
     (StringWellFormed s → (r = 0 ∨ n ≤ r) → exec (.verify ra) s = .next (raised s 1 1)) ∧
     (StringWellFormed s → 1 ≤ r → r < n → (sv = 0 ∨ n ≤ sv) →
       exec (.verify ra) s = .next (raised s 1 2)) ∧
     (StringWellFormed s → 1 ≤ r → r < n → 1 ≤ sv → sv < n → ¬ InRange s q →
       exec (.verify ra) s = .next (raised s 10 2)))

/-- R202: `VERIFY` accepts what `SIGN` produced, for prime `N`, under the group law at the key's
multiples (a hypothesis, as R202 has it). -/
def Obligations.VerifyAcceptsWhatSignProduced : Prop :=
  ∀ (s t : State) (j : Fin 4) (q : Point),
    s.status.locked = true → Nat.Prime s.n.toNat → s.nbits.toNat = bitlength s.n.toNat →
    s.nbits.toNat % 4 = 0 → InRange s s.g → 1 ≤ s.d.toNat → s.d.toNat < s.n.toNat →
    s.mulPoint s.d.toNat s.g.value = .ok q → PointInRange s.p.toNat q → KeyGroupLaw s q →
    exec .sign s = .next t → t.status.err = 0 →
    ∃ u, exec (.verify (BitVec.ofNat 4 j.val)) { t with pt := t.pt.set j (PointReg.ofPoint q) } = .next u ∧
      u.status.valid = true ∧ u.status.err = 0

/-! ### The codec -/

/-- R206, R220: `SIGENC` writes the two fields and the length, or raises `OperandRange(5)`. -/
def Obligations.SigencResults : Prop :=
  ∀ s : State, s.status.locked = true → s.hexw ≤ 64 →
    ((s.sigr.toNat < 16 ^ s.hexw ∧ s.sigs.toNat < 16 ^ s.hexw) →
      ∃ t, exec .sigenc s = .next t ∧
        t.sig.toList =
          hexenc s.sigr.toNat s.hexw ++ hexenc s.sigs.toNat s.hexw ++ s.sig.toList.drop (2 * s.hexw) ∧
        t = { s with
              sig := t.sig
              siglen := BitVec.ofNat 32 (2 * s.hexw)
              status := okStatus true }) ∧
    ((16 ^ s.hexw ≤ s.sigr.toNat ∨ 16 ^ s.hexw ≤ s.sigs.toNat) →
      exec .sigenc s = .next (raised s 10 5))

/-- R208, R199, R220: `SIGDEC` writes the two decoded components, or raises
`MalformedSignatureEncoding`. -/
def Obligations.SigdecResults : Prop :=
  ∀ s : State, s.status.locked = true → s.hexw ≤ 64 →
    (StringWellFormed s →
      ∃ t, exec .sigdec s = .next t ∧
        t.sigr.toNat = hexdec ((sigField s).take s.hexw) ∧
        t.sigs.toNat = hexdec ((sigField s).drop s.hexw) ∧
        t = { s with
              sigr := t.sigr, sigs := t.sigs, status := okStatus true }) ∧
    (s.siglen.toNat ≠ 2 * s.hexw → exec .sigdec s = .next (raised s 4 1)) ∧
    (s.siglen.toNat = 2 * s.hexw → (∃ c ∈ sigField s, hexval c = none) →
      exec .sigdec s = .next (raised s 4 2))

/-- R209: `sigenc` followed by `sigdec` leaves `SIGR`, `SIGS` unchanged, for all components that fit, because
`hexdec(hexenc(v, w)) = v`; `sigdec` followed by `sigenc` gives the string back up to letter case. -/
def Obligations.SigencThenSigdecRoundTrip : Prop :=
  (∀ w v : Nat, v < 16 ^ w → hexdec (hexenc v w) = v) ∧
  ∀ s : State, s.status.locked = true → s.hexw ≤ 64 →
    (s.sigr.toNat < 16 ^ s.hexw → s.sigs.toNat < 16 ^ s.hexw →
      ∃ t u, exec .sigenc s = .next t ∧ exec .sigdec t = .next u ∧
        u.sigr = s.sigr ∧ u.sigs = s.sigs ∧ u.status = okStatus true) ∧
    (StringWellFormed s →
      ∃ t u, exec .sigdec s = .next t ∧ exec .sigenc t = .next u ∧
        u.siglen = s.siglen ∧ (sigField u).map hexval = (sigField s).map hexval)

/-! ### Invariants -/

/-- R52: the state after reset meets the invariant, for every admissible build. -/
def Obligations.ResetMeetsInvariant : Prop := ∀ b : Build, b.Wf → (State.resetOf b).Inv

/-- R13, R42, R51, R220: every step keeps the invariant: registers fit `W` bits, a locked core has checked
parameters and a generator in range, an unlocked one has none, and `STATUS` shows a produced outcome. -/
def Obligations.StepKeepsInvariant : Prop := ∀ s t : State, s.Inv → step s = .next t → t.Inv

/-- R140: on a locked core in the invariant both moduli are odd, `P >= 5` and `N >= 9`, so every residue,
inverse and Legendre symbol of a field command is defined. -/
def Obligations.LockedModuliAreOdd : Prop :=
  ∀ s : State, s.Inv → s.status.locked = true →
    s.p.toNat % 2 = 1 ∧ 5 ≤ s.p.toNat ∧ s.n.toNat % 2 = 1 ∧ 9 ≤ s.n.toNat ∧ s.hexw ≤ 64 ∧ 4 * s.hexw = s.nbits.toNat

/-- R42, R51: once locked, the parameters, `G`, `NBITS` and `LOCKED` stay until a reset. -/
def Obligations.DomainFrozenUntilReset : Prop :=
  ∀ s t : State, s.status.locked = true → step s = .next t → s.host.head? ≠ some .reset →
    t.status.locked = true ∧ t.p = s.p ∧ t.a = s.a ∧ t.b = s.b ∧ t.n = s.n ∧ t.gcpar = s.gcpar ∧
    t.gcx = s.gcx ∧ t.hlen = s.hlen ∧ t.g = s.g ∧ t.nbits = s.nbits

/-- A host that keeps to the window meets no stop but the hang of R28, at a write of `KEYGEN` or `SIGN` to
`CMD`, and otherwise goes on keeping to the window.  The model's choices in it (DESIGN CHOICE): the fault for a
hang (assumption 6), the fault for an access outside the window (assumption 7), and that the host goes on after
the bus error of a refused access (assumption 8; R76 and R270 c give the core no step there). -/
def Obligations.HostInWindowStopsOnlyOnHang : Prop :=
  ∀ s : State, s.HostInWindow →
    (∃ t, step s = .next t ∧ t.HostInWindow ∧ t.build = s.build) ∨
    (step s = .fault .endlessRetry ∧
      ∃ w rest, s.host = .write (s.build.base + 0x00C) 4 w :: rest ∧
        (decode w = .ok .sign ∨ ∃ bits, decode w = .ok (.keygen bits)))
end

