-- ==== Sys2Proof/Laws/State.lean ====
section
/-!
SUPPORT. One lemma per field per named update of the state, so that no proof unfolds a record update.
-/

namespace Sys2Proof.Machine

open Sys2Proof

variable (s : State)

/-! ### `State.setS` -/

@[simp] theorem State.setS_build (i : Fin 8) (v : Nat) : (s.setS i v).build = s.build := rfl
@[simp] theorem State.setS_ctrlIe (i : Fin 8) (v : Nat) : (s.setS i v).ctrlIe = s.ctrlIe := rfl
@[simp] theorem State.setS_status (i : Fin 8) (v : Nat) : (s.setS i v).status = s.status := rfl
@[simp] theorem State.setS_hlen (i : Fin 8) (v : Nat) : (s.setS i v).hlen = s.hlen := rfl
@[simp] theorem State.setS_siglen (i : Fin 8) (v : Nat) : (s.setS i v).siglen = s.siglen := rfl
@[simp] theorem State.setS_gcpar (i : Fin 8) (v : Nat) : (s.setS i v).gcpar = s.gcpar := rfl
@[simp] theorem State.setS_nbits (i : Fin 8) (v : Nat) : (s.setS i v).nbits = s.nbits := rfl
@[simp] theorem State.setS_p (i : Fin 8) (v : Nat) : (s.setS i v).p = s.p := rfl
@[simp] theorem State.setS_a (i : Fin 8) (v : Nat) : (s.setS i v).a = s.a := rfl
@[simp] theorem State.setS_b (i : Fin 8) (v : Nat) : (s.setS i v).b = s.b := rfl
@[simp] theorem State.setS_n (i : Fin 8) (v : Nat) : (s.setS i v).n = s.n := rfl
@[simp] theorem State.setS_gcx (i : Fin 8) (v : Nat) : (s.setS i v).gcx = s.gcx := rfl
@[simp] theorem State.setS_d (i : Fin 8) (v : Nat) : (s.setS i v).d = s.d := rfl
@[simp] theorem State.setS_sreg (i : Fin 8) (v : Nat) : (s.setS i v).sreg = s.sreg.set i (toWord v) := rfl
@[simp] theorem State.setS_pt (i : Fin 8) (v : Nat) : (s.setS i v).pt = s.pt := rfl
@[simp] theorem State.setS_g (i : Fin 8) (v : Nat) : (s.setS i v).g = s.g := rfl
@[simp] theorem State.setS_sigr (i : Fin 8) (v : Nat) : (s.setS i v).sigr = s.sigr := rfl
@[simp] theorem State.setS_sigs (i : Fin 8) (v : Nat) : (s.setS i v).sigs = s.sigs := rfl
@[simp] theorem State.setS_h (i : Fin 8) (v : Nat) : (s.setS i v).h = s.h := rfl
@[simp] theorem State.setS_sig (i : Fin 8) (v : Nat) : (s.setS i v).sig = s.sig := rfl
@[simp] theorem State.setS_port (i : Fin 8) (v : Nat) : (s.setS i v).port = s.port := rfl
@[simp] theorem State.setS_host (i : Fin 8) (v : Nat) : (s.setS i v).host = s.host := rfl
@[simp] theorem State.setS_responses (i : Fin 8) (v : Nat) : (s.setS i v).responses = s.responses := rfl

/-! ### `State.setPt` -/

@[simp] theorem State.setPt_build (j : Fin 4) (v : Point) : (s.setPt j v).build = s.build := rfl
@[simp] theorem State.setPt_ctrlIe (j : Fin 4) (v : Point) : (s.setPt j v).ctrlIe = s.ctrlIe := rfl
@[simp] theorem State.setPt_status (j : Fin 4) (v : Point) : (s.setPt j v).status = s.status := rfl
@[simp] theorem State.setPt_hlen (j : Fin 4) (v : Point) : (s.setPt j v).hlen = s.hlen := rfl
@[simp] theorem State.setPt_siglen (j : Fin 4) (v : Point) : (s.setPt j v).siglen = s.siglen := rfl
@[simp] theorem State.setPt_gcpar (j : Fin 4) (v : Point) : (s.setPt j v).gcpar = s.gcpar := rfl
@[simp] theorem State.setPt_nbits (j : Fin 4) (v : Point) : (s.setPt j v).nbits = s.nbits := rfl
@[simp] theorem State.setPt_p (j : Fin 4) (v : Point) : (s.setPt j v).p = s.p := rfl
@[simp] theorem State.setPt_a (j : Fin 4) (v : Point) : (s.setPt j v).a = s.a := rfl
@[simp] theorem State.setPt_b (j : Fin 4) (v : Point) : (s.setPt j v).b = s.b := rfl
@[simp] theorem State.setPt_n (j : Fin 4) (v : Point) : (s.setPt j v).n = s.n := rfl
@[simp] theorem State.setPt_gcx (j : Fin 4) (v : Point) : (s.setPt j v).gcx = s.gcx := rfl
@[simp] theorem State.setPt_d (j : Fin 4) (v : Point) : (s.setPt j v).d = s.d := rfl
@[simp] theorem State.setPt_sreg (j : Fin 4) (v : Point) : (s.setPt j v).sreg = s.sreg := rfl
@[simp] theorem State.setPt_pt (j : Fin 4) (v : Point) : (s.setPt j v).pt = s.pt.set j (PointReg.ofPoint v) := rfl
@[simp] theorem State.setPt_g (j : Fin 4) (v : Point) : (s.setPt j v).g = s.g := rfl
@[simp] theorem State.setPt_sigr (j : Fin 4) (v : Point) : (s.setPt j v).sigr = s.sigr := rfl
@[simp] theorem State.setPt_sigs (j : Fin 4) (v : Point) : (s.setPt j v).sigs = s.sigs := rfl
@[simp] theorem State.setPt_h (j : Fin 4) (v : Point) : (s.setPt j v).h = s.h := rfl
@[simp] theorem State.setPt_sig (j : Fin 4) (v : Point) : (s.setPt j v).sig = s.sig := rfl
@[simp] theorem State.setPt_port (j : Fin 4) (v : Point) : (s.setPt j v).port = s.port := rfl
@[simp] theorem State.setPt_host (j : Fin 4) (v : Point) : (s.setPt j v).host = s.host := rfl
@[simp] theorem State.setPt_responses (j : Fin 4) (v : Point) : (s.setPt j v).responses = s.responses := rfl

/-! ### `State.setD` -/

@[simp] theorem State.setD_build (v : Nat) : (s.setD v).build = s.build := rfl
@[simp] theorem State.setD_ctrlIe (v : Nat) : (s.setD v).ctrlIe = s.ctrlIe := rfl
@[simp] theorem State.setD_status (v : Nat) : (s.setD v).status = s.status := rfl
@[simp] theorem State.setD_hlen (v : Nat) : (s.setD v).hlen = s.hlen := rfl
@[simp] theorem State.setD_siglen (v : Nat) : (s.setD v).siglen = s.siglen := rfl
@[simp] theorem State.setD_gcpar (v : Nat) : (s.setD v).gcpar = s.gcpar := rfl
@[simp] theorem State.setD_nbits (v : Nat) : (s.setD v).nbits = s.nbits := rfl
@[simp] theorem State.setD_p (v : Nat) : (s.setD v).p = s.p := rfl
@[simp] theorem State.setD_a (v : Nat) : (s.setD v).a = s.a := rfl
@[simp] theorem State.setD_b (v : Nat) : (s.setD v).b = s.b := rfl
@[simp] theorem State.setD_n (v : Nat) : (s.setD v).n = s.n := rfl
@[simp] theorem State.setD_gcx (v : Nat) : (s.setD v).gcx = s.gcx := rfl
@[simp] theorem State.setD_d (v : Nat) : (s.setD v).d = toWord v := rfl
@[simp] theorem State.setD_sreg (v : Nat) : (s.setD v).sreg = s.sreg := rfl
@[simp] theorem State.setD_pt (v : Nat) : (s.setD v).pt = s.pt := rfl
@[simp] theorem State.setD_g (v : Nat) : (s.setD v).g = s.g := rfl
@[simp] theorem State.setD_sigr (v : Nat) : (s.setD v).sigr = s.sigr := rfl
@[simp] theorem State.setD_sigs (v : Nat) : (s.setD v).sigs = s.sigs := rfl
@[simp] theorem State.setD_h (v : Nat) : (s.setD v).h = s.h := rfl
@[simp] theorem State.setD_sig (v : Nat) : (s.setD v).sig = s.sig := rfl
@[simp] theorem State.setD_port (v : Nat) : (s.setD v).port = s.port := rfl
@[simp] theorem State.setD_host (v : Nat) : (s.setD v).host = s.host := rfl
@[simp] theorem State.setD_responses (v : Nat) : (s.setD v).responses = s.responses := rfl

/-! ### `State.setSignature` -/

@[simp] theorem State.setSignature_build (r sv : Nat) : (s.setSignature r sv).build = s.build := rfl
@[simp] theorem State.setSignature_ctrlIe (r sv : Nat) : (s.setSignature r sv).ctrlIe = s.ctrlIe := rfl
@[simp] theorem State.setSignature_status (r sv : Nat) : (s.setSignature r sv).status = s.status := rfl
@[simp] theorem State.setSignature_hlen (r sv : Nat) : (s.setSignature r sv).hlen = s.hlen := rfl
@[simp] theorem State.setSignature_siglen (r sv : Nat) : (s.setSignature r sv).siglen = s.siglen := rfl
@[simp] theorem State.setSignature_gcpar (r sv : Nat) : (s.setSignature r sv).gcpar = s.gcpar := rfl
@[simp] theorem State.setSignature_nbits (r sv : Nat) : (s.setSignature r sv).nbits = s.nbits := rfl
@[simp] theorem State.setSignature_p (r sv : Nat) : (s.setSignature r sv).p = s.p := rfl
@[simp] theorem State.setSignature_a (r sv : Nat) : (s.setSignature r sv).a = s.a := rfl
@[simp] theorem State.setSignature_b (r sv : Nat) : (s.setSignature r sv).b = s.b := rfl
@[simp] theorem State.setSignature_n (r sv : Nat) : (s.setSignature r sv).n = s.n := rfl
@[simp] theorem State.setSignature_gcx (r sv : Nat) : (s.setSignature r sv).gcx = s.gcx := rfl
@[simp] theorem State.setSignature_d (r sv : Nat) : (s.setSignature r sv).d = s.d := rfl
@[simp] theorem State.setSignature_sreg (r sv : Nat) : (s.setSignature r sv).sreg = s.sreg := rfl
@[simp] theorem State.setSignature_pt (r sv : Nat) : (s.setSignature r sv).pt = s.pt := rfl
@[simp] theorem State.setSignature_g (r sv : Nat) : (s.setSignature r sv).g = s.g := rfl
@[simp] theorem State.setSignature_sigr (r sv : Nat) : (s.setSignature r sv).sigr = toWord r := rfl
@[simp] theorem State.setSignature_sigs (r sv : Nat) : (s.setSignature r sv).sigs = toWord sv := rfl
@[simp] theorem State.setSignature_h (r sv : Nat) : (s.setSignature r sv).h = s.h := rfl
@[simp] theorem State.setSignature_sig (r sv : Nat) : (s.setSignature r sv).sig = s.sig := rfl
@[simp] theorem State.setSignature_port (r sv : Nat) : (s.setSignature r sv).port = s.port := rfl
@[simp] theorem State.setSignature_host (r sv : Nat) : (s.setSignature r sv).host = s.host := rfl
@[simp] theorem State.setSignature_responses (r sv : Nat) : (s.setSignature r sv).responses = s.responses := rfl

/-! ### `State.setSigString` -/

@[simp] theorem State.setSigString_build (bytes : List Byte) : (s.setSigString bytes).build = s.build := rfl
@[simp] theorem State.setSigString_ctrlIe (bytes : List Byte) : (s.setSigString bytes).ctrlIe = s.ctrlIe := rfl
@[simp] theorem State.setSigString_status (bytes : List Byte) : (s.setSigString bytes).status = s.status := rfl
@[simp] theorem State.setSigString_hlen (bytes : List Byte) : (s.setSigString bytes).hlen = s.hlen := rfl
@[simp] theorem State.setSigString_siglen (bytes : List Byte) : (s.setSigString bytes).siglen = BitVec.ofNat 32 bytes.length := rfl
@[simp] theorem State.setSigString_gcpar (bytes : List Byte) : (s.setSigString bytes).gcpar = s.gcpar := rfl
@[simp] theorem State.setSigString_nbits (bytes : List Byte) : (s.setSigString bytes).nbits = s.nbits := rfl
@[simp] theorem State.setSigString_p (bytes : List Byte) : (s.setSigString bytes).p = s.p := rfl
@[simp] theorem State.setSigString_a (bytes : List Byte) : (s.setSigString bytes).a = s.a := rfl
@[simp] theorem State.setSigString_b (bytes : List Byte) : (s.setSigString bytes).b = s.b := rfl
@[simp] theorem State.setSigString_n (bytes : List Byte) : (s.setSigString bytes).n = s.n := rfl
@[simp] theorem State.setSigString_gcx (bytes : List Byte) : (s.setSigString bytes).gcx = s.gcx := rfl
@[simp] theorem State.setSigString_d (bytes : List Byte) : (s.setSigString bytes).d = s.d := rfl
@[simp] theorem State.setSigString_sreg (bytes : List Byte) : (s.setSigString bytes).sreg = s.sreg := rfl
@[simp] theorem State.setSigString_pt (bytes : List Byte) : (s.setSigString bytes).pt = s.pt := rfl
@[simp] theorem State.setSigString_g (bytes : List Byte) : (s.setSigString bytes).g = s.g := rfl
@[simp] theorem State.setSigString_sigr (bytes : List Byte) : (s.setSigString bytes).sigr = s.sigr := rfl
@[simp] theorem State.setSigString_sigs (bytes : List Byte) : (s.setSigString bytes).sigs = s.sigs := rfl
@[simp] theorem State.setSigString_h (bytes : List Byte) : (s.setSigString bytes).h = s.h := rfl
@[simp] theorem State.setSigString_sig (bytes : List Byte) : (s.setSigString bytes).sig = overwriteBuffer bytes s.sig := rfl
@[simp] theorem State.setSigString_port (bytes : List Byte) : (s.setSigString bytes).port = s.port := rfl
@[simp] theorem State.setSigString_host (bytes : List Byte) : (s.setSigString bytes).host = s.host := rfl
@[simp] theorem State.setSigString_responses (bytes : List Byte) : (s.setSigString bytes).responses = s.responses := rfl

/-! ### `State.lockDomain` -/

@[simp] theorem State.lockDomain_build (pt : Point) (l : Nat) : (s.lockDomain pt l).build = s.build := rfl
@[simp] theorem State.lockDomain_ctrlIe (pt : Point) (l : Nat) : (s.lockDomain pt l).ctrlIe = s.ctrlIe := rfl
@[simp] theorem State.lockDomain_status (pt : Point) (l : Nat) : (s.lockDomain pt l).status = { s.status with locked := true } := rfl
@[simp] theorem State.lockDomain_hlen (pt : Point) (l : Nat) : (s.lockDomain pt l).hlen = s.hlen := rfl
@[simp] theorem State.lockDomain_siglen (pt : Point) (l : Nat) : (s.lockDomain pt l).siglen = s.siglen := rfl
@[simp] theorem State.lockDomain_gcpar (pt : Point) (l : Nat) : (s.lockDomain pt l).gcpar = s.gcpar := rfl
@[simp] theorem State.lockDomain_nbits (pt : Point) (l : Nat) : (s.lockDomain pt l).nbits = BitVec.ofNat 32 l := rfl
@[simp] theorem State.lockDomain_p (pt : Point) (l : Nat) : (s.lockDomain pt l).p = s.p := rfl
@[simp] theorem State.lockDomain_a (pt : Point) (l : Nat) : (s.lockDomain pt l).a = s.a := rfl
@[simp] theorem State.lockDomain_b (pt : Point) (l : Nat) : (s.lockDomain pt l).b = s.b := rfl
@[simp] theorem State.lockDomain_n (pt : Point) (l : Nat) : (s.lockDomain pt l).n = s.n := rfl
@[simp] theorem State.lockDomain_gcx (pt : Point) (l : Nat) : (s.lockDomain pt l).gcx = s.gcx := rfl
@[simp] theorem State.lockDomain_d (pt : Point) (l : Nat) : (s.lockDomain pt l).d = s.d := rfl
@[simp] theorem State.lockDomain_sreg (pt : Point) (l : Nat) : (s.lockDomain pt l).sreg = s.sreg := rfl
@[simp] theorem State.lockDomain_pt (pt : Point) (l : Nat) : (s.lockDomain pt l).pt = s.pt := rfl
@[simp] theorem State.lockDomain_g (pt : Point) (l : Nat) : (s.lockDomain pt l).g = PointReg.ofPoint pt := rfl
@[simp] theorem State.lockDomain_sigr (pt : Point) (l : Nat) : (s.lockDomain pt l).sigr = s.sigr := rfl
@[simp] theorem State.lockDomain_sigs (pt : Point) (l : Nat) : (s.lockDomain pt l).sigs = s.sigs := rfl
@[simp] theorem State.lockDomain_h (pt : Point) (l : Nat) : (s.lockDomain pt l).h = s.h := rfl
@[simp] theorem State.lockDomain_sig (pt : Point) (l : Nat) : (s.lockDomain pt l).sig = s.sig := rfl
@[simp] theorem State.lockDomain_port (pt : Point) (l : Nat) : (s.lockDomain pt l).port = s.port := rfl
@[simp] theorem State.lockDomain_host (pt : Point) (l : Nat) : (s.lockDomain pt l).host = s.host := rfl
@[simp] theorem State.lockDomain_responses (pt : Point) (l : Nat) : (s.lockDomain pt l).responses = s.responses := rfl

/-! ### `State.clearWorking` -/

@[simp] theorem State.clearWorking_build : (s.clearWorking).build = s.build := rfl
@[simp] theorem State.clearWorking_ctrlIe : (s.clearWorking).ctrlIe = s.ctrlIe := rfl
@[simp] theorem State.clearWorking_status : (s.clearWorking).status = s.status := rfl
@[simp] theorem State.clearWorking_hlen : (s.clearWorking).hlen = s.hlen := rfl
@[simp] theorem State.clearWorking_siglen : (s.clearWorking).siglen = 0 := rfl
@[simp] theorem State.clearWorking_gcpar : (s.clearWorking).gcpar = s.gcpar := rfl
@[simp] theorem State.clearWorking_nbits : (s.clearWorking).nbits = s.nbits := rfl
@[simp] theorem State.clearWorking_p : (s.clearWorking).p = s.p := rfl
@[simp] theorem State.clearWorking_a : (s.clearWorking).a = s.a := rfl
@[simp] theorem State.clearWorking_b : (s.clearWorking).b = s.b := rfl
@[simp] theorem State.clearWorking_n : (s.clearWorking).n = s.n := rfl
@[simp] theorem State.clearWorking_gcx : (s.clearWorking).gcx = s.gcx := rfl
@[simp] theorem State.clearWorking_d : (s.clearWorking).d = 0 := rfl
@[simp] theorem State.clearWorking_sreg : (s.clearWorking).sreg = Vector.replicate 8 0 := rfl
@[simp] theorem State.clearWorking_pt : (s.clearWorking).pt = Vector.replicate 4 PointReg.identity := rfl
@[simp] theorem State.clearWorking_g : (s.clearWorking).g = s.g := rfl
@[simp] theorem State.clearWorking_sigr : (s.clearWorking).sigr = 0 := rfl
@[simp] theorem State.clearWorking_sigs : (s.clearWorking).sigs = 0 := rfl
@[simp] theorem State.clearWorking_h : (s.clearWorking).h = Vector.replicate 64 0 := rfl
@[simp] theorem State.clearWorking_sig : (s.clearWorking).sig = Vector.replicate 128 0 := rfl
@[simp] theorem State.clearWorking_port : (s.clearWorking).port = s.port := rfl
@[simp] theorem State.clearWorking_host : (s.clearWorking).host = s.host := rfl
@[simp] theorem State.clearWorking_responses : (s.clearWorking).responses = s.responses := rfl

/-! ### `State.setPort` -/

@[simp] theorem State.setPort_build (port : Port) : (s.setPort port).build = s.build := rfl
@[simp] theorem State.setPort_ctrlIe (port : Port) : (s.setPort port).ctrlIe = s.ctrlIe := rfl
@[simp] theorem State.setPort_status (port : Port) : (s.setPort port).status = s.status := rfl
@[simp] theorem State.setPort_hlen (port : Port) : (s.setPort port).hlen = s.hlen := rfl
@[simp] theorem State.setPort_siglen (port : Port) : (s.setPort port).siglen = s.siglen := rfl
@[simp] theorem State.setPort_gcpar (port : Port) : (s.setPort port).gcpar = s.gcpar := rfl
@[simp] theorem State.setPort_nbits (port : Port) : (s.setPort port).nbits = s.nbits := rfl
@[simp] theorem State.setPort_p (port : Port) : (s.setPort port).p = s.p := rfl
@[simp] theorem State.setPort_a (port : Port) : (s.setPort port).a = s.a := rfl
@[simp] theorem State.setPort_b (port : Port) : (s.setPort port).b = s.b := rfl
@[simp] theorem State.setPort_n (port : Port) : (s.setPort port).n = s.n := rfl
@[simp] theorem State.setPort_gcx (port : Port) : (s.setPort port).gcx = s.gcx := rfl
@[simp] theorem State.setPort_d (port : Port) : (s.setPort port).d = s.d := rfl
@[simp] theorem State.setPort_sreg (port : Port) : (s.setPort port).sreg = s.sreg := rfl
@[simp] theorem State.setPort_pt (port : Port) : (s.setPort port).pt = s.pt := rfl
@[simp] theorem State.setPort_g (port : Port) : (s.setPort port).g = s.g := rfl
@[simp] theorem State.setPort_sigr (port : Port) : (s.setPort port).sigr = s.sigr := rfl
@[simp] theorem State.setPort_sigs (port : Port) : (s.setPort port).sigs = s.sigs := rfl
@[simp] theorem State.setPort_h (port : Port) : (s.setPort port).h = s.h := rfl
@[simp] theorem State.setPort_sig (port : Port) : (s.setPort port).sig = s.sig := rfl
@[simp] theorem State.setPort_port (port : Port) : (s.setPort port).port = port := rfl
@[simp] theorem State.setPort_host (port : Port) : (s.setPort port).host = s.host := rfl
@[simp] theorem State.setPort_responses (port : Port) : (s.setPort port).responses = s.responses := rfl

/-! ### `State.endCommand` -/

@[simp] theorem State.endCommand_build (valid : Bool) (err info : Byte) : (s.endCommand valid err info).build = s.build := rfl
@[simp] theorem State.endCommand_ctrlIe (valid : Bool) (err info : Byte) : (s.endCommand valid err info).ctrlIe = s.ctrlIe := rfl
@[simp] theorem State.endCommand_status (valid : Bool) (err info : Byte) : (s.endCommand valid err info).status = s.status.ended valid err info := rfl
@[simp] theorem State.endCommand_hlen (valid : Bool) (err info : Byte) : (s.endCommand valid err info).hlen = s.hlen := rfl
@[simp] theorem State.endCommand_siglen (valid : Bool) (err info : Byte) : (s.endCommand valid err info).siglen = s.siglen := rfl
@[simp] theorem State.endCommand_gcpar (valid : Bool) (err info : Byte) : (s.endCommand valid err info).gcpar = s.gcpar := rfl
@[simp] theorem State.endCommand_nbits (valid : Bool) (err info : Byte) : (s.endCommand valid err info).nbits = s.nbits := rfl
@[simp] theorem State.endCommand_p (valid : Bool) (err info : Byte) : (s.endCommand valid err info).p = s.p := rfl
@[simp] theorem State.endCommand_a (valid : Bool) (err info : Byte) : (s.endCommand valid err info).a = s.a := rfl
@[simp] theorem State.endCommand_b (valid : Bool) (err info : Byte) : (s.endCommand valid err info).b = s.b := rfl
@[simp] theorem State.endCommand_n (valid : Bool) (err info : Byte) : (s.endCommand valid err info).n = s.n := rfl
@[simp] theorem State.endCommand_gcx (valid : Bool) (err info : Byte) : (s.endCommand valid err info).gcx = s.gcx := rfl
@[simp] theorem State.endCommand_d (valid : Bool) (err info : Byte) : (s.endCommand valid err info).d = s.d := rfl
@[simp] theorem State.endCommand_sreg (valid : Bool) (err info : Byte) : (s.endCommand valid err info).sreg = s.sreg := rfl
@[simp] theorem State.endCommand_pt (valid : Bool) (err info : Byte) : (s.endCommand valid err info).pt = s.pt := rfl
@[simp] theorem State.endCommand_g (valid : Bool) (err info : Byte) : (s.endCommand valid err info).g = s.g := rfl
@[simp] theorem State.endCommand_sigr (valid : Bool) (err info : Byte) : (s.endCommand valid err info).sigr = s.sigr := rfl
@[simp] theorem State.endCommand_sigs (valid : Bool) (err info : Byte) : (s.endCommand valid err info).sigs = s.sigs := rfl
@[simp] theorem State.endCommand_h (valid : Bool) (err info : Byte) : (s.endCommand valid err info).h = s.h := rfl
@[simp] theorem State.endCommand_sig (valid : Bool) (err info : Byte) : (s.endCommand valid err info).sig = s.sig := rfl
@[simp] theorem State.endCommand_port (valid : Bool) (err info : Byte) : (s.endCommand valid err info).port = s.port := rfl
@[simp] theorem State.endCommand_host (valid : Bool) (err info : Byte) : (s.endCommand valid err info).host = s.host := rfl
@[simp] theorem State.endCommand_responses (valid : Bool) (err info : Byte) : (s.endCommand valid err info).responses = s.responses := rfl

/-! ### `State.succeed` -/

@[simp] theorem State.succeed_build : (s.succeed).build = s.build := rfl
@[simp] theorem State.succeed_ctrlIe : (s.succeed).ctrlIe = s.ctrlIe := rfl
@[simp] theorem State.succeed_status : (s.succeed).status = s.status.ended false 0 0 := rfl
@[simp] theorem State.succeed_hlen : (s.succeed).hlen = s.hlen := rfl
@[simp] theorem State.succeed_siglen : (s.succeed).siglen = s.siglen := rfl
@[simp] theorem State.succeed_gcpar : (s.succeed).gcpar = s.gcpar := rfl
@[simp] theorem State.succeed_nbits : (s.succeed).nbits = s.nbits := rfl
@[simp] theorem State.succeed_p : (s.succeed).p = s.p := rfl
@[simp] theorem State.succeed_a : (s.succeed).a = s.a := rfl
@[simp] theorem State.succeed_b : (s.succeed).b = s.b := rfl
@[simp] theorem State.succeed_n : (s.succeed).n = s.n := rfl
@[simp] theorem State.succeed_gcx : (s.succeed).gcx = s.gcx := rfl
@[simp] theorem State.succeed_d : (s.succeed).d = s.d := rfl
@[simp] theorem State.succeed_sreg : (s.succeed).sreg = s.sreg := rfl
@[simp] theorem State.succeed_pt : (s.succeed).pt = s.pt := rfl
@[simp] theorem State.succeed_g : (s.succeed).g = s.g := rfl
@[simp] theorem State.succeed_sigr : (s.succeed).sigr = s.sigr := rfl
@[simp] theorem State.succeed_sigs : (s.succeed).sigs = s.sigs := rfl
@[simp] theorem State.succeed_h : (s.succeed).h = s.h := rfl
@[simp] theorem State.succeed_sig : (s.succeed).sig = s.sig := rfl
@[simp] theorem State.succeed_port : (s.succeed).port = s.port := rfl
@[simp] theorem State.succeed_host : (s.succeed).host = s.host := rfl
@[simp] theorem State.succeed_responses : (s.succeed).responses = s.responses := rfl

/-! ### `State.raise` -/

@[simp] theorem State.raise_build (e : CmdError) : (s.raise e).build = s.build := rfl
@[simp] theorem State.raise_ctrlIe (e : CmdError) : (s.raise e).ctrlIe = s.ctrlIe := rfl
@[simp] theorem State.raise_status (e : CmdError) : (s.raise e).status = s.status.ended false e.kind.code e.info := rfl
@[simp] theorem State.raise_hlen (e : CmdError) : (s.raise e).hlen = s.hlen := rfl
@[simp] theorem State.raise_siglen (e : CmdError) : (s.raise e).siglen = s.siglen := rfl
@[simp] theorem State.raise_gcpar (e : CmdError) : (s.raise e).gcpar = s.gcpar := rfl
@[simp] theorem State.raise_nbits (e : CmdError) : (s.raise e).nbits = s.nbits := rfl
@[simp] theorem State.raise_p (e : CmdError) : (s.raise e).p = s.p := rfl
@[simp] theorem State.raise_a (e : CmdError) : (s.raise e).a = s.a := rfl
@[simp] theorem State.raise_b (e : CmdError) : (s.raise e).b = s.b := rfl
@[simp] theorem State.raise_n (e : CmdError) : (s.raise e).n = s.n := rfl
@[simp] theorem State.raise_gcx (e : CmdError) : (s.raise e).gcx = s.gcx := rfl
@[simp] theorem State.raise_d (e : CmdError) : (s.raise e).d = s.d := rfl
@[simp] theorem State.raise_sreg (e : CmdError) : (s.raise e).sreg = s.sreg := rfl
@[simp] theorem State.raise_pt (e : CmdError) : (s.raise e).pt = s.pt := rfl
@[simp] theorem State.raise_g (e : CmdError) : (s.raise e).g = s.g := rfl
@[simp] theorem State.raise_sigr (e : CmdError) : (s.raise e).sigr = s.sigr := rfl
@[simp] theorem State.raise_sigs (e : CmdError) : (s.raise e).sigs = s.sigs := rfl
@[simp] theorem State.raise_h (e : CmdError) : (s.raise e).h = s.h := rfl
@[simp] theorem State.raise_sig (e : CmdError) : (s.raise e).sig = s.sig := rfl
@[simp] theorem State.raise_port (e : CmdError) : (s.raise e).port = s.port := rfl
@[simp] theorem State.raise_host (e : CmdError) : (s.raise e).host = s.host := rfl
@[simp] theorem State.raise_responses (e : CmdError) : (s.raise e).responses = s.responses := rfl

/-! ### `State.acknowledgeDone` -/

@[simp] theorem State.acknowledgeDone_build (v : BusWord) : (s.acknowledgeDone v).build = s.build := rfl
@[simp] theorem State.acknowledgeDone_ctrlIe (v : BusWord) : (s.acknowledgeDone v).ctrlIe = s.ctrlIe := rfl
@[simp] theorem State.acknowledgeDone_status (v : BusWord) : (s.acknowledgeDone v).status = s.status.hostWrite v := rfl
@[simp] theorem State.acknowledgeDone_hlen (v : BusWord) : (s.acknowledgeDone v).hlen = s.hlen := rfl
@[simp] theorem State.acknowledgeDone_siglen (v : BusWord) : (s.acknowledgeDone v).siglen = s.siglen := rfl
@[simp] theorem State.acknowledgeDone_gcpar (v : BusWord) : (s.acknowledgeDone v).gcpar = s.gcpar := rfl
@[simp] theorem State.acknowledgeDone_nbits (v : BusWord) : (s.acknowledgeDone v).nbits = s.nbits := rfl
@[simp] theorem State.acknowledgeDone_p (v : BusWord) : (s.acknowledgeDone v).p = s.p := rfl
@[simp] theorem State.acknowledgeDone_a (v : BusWord) : (s.acknowledgeDone v).a = s.a := rfl
@[simp] theorem State.acknowledgeDone_b (v : BusWord) : (s.acknowledgeDone v).b = s.b := rfl
@[simp] theorem State.acknowledgeDone_n (v : BusWord) : (s.acknowledgeDone v).n = s.n := rfl
@[simp] theorem State.acknowledgeDone_gcx (v : BusWord) : (s.acknowledgeDone v).gcx = s.gcx := rfl
@[simp] theorem State.acknowledgeDone_d (v : BusWord) : (s.acknowledgeDone v).d = s.d := rfl
@[simp] theorem State.acknowledgeDone_sreg (v : BusWord) : (s.acknowledgeDone v).sreg = s.sreg := rfl
@[simp] theorem State.acknowledgeDone_pt (v : BusWord) : (s.acknowledgeDone v).pt = s.pt := rfl
@[simp] theorem State.acknowledgeDone_g (v : BusWord) : (s.acknowledgeDone v).g = s.g := rfl
@[simp] theorem State.acknowledgeDone_sigr (v : BusWord) : (s.acknowledgeDone v).sigr = s.sigr := rfl
@[simp] theorem State.acknowledgeDone_sigs (v : BusWord) : (s.acknowledgeDone v).sigs = s.sigs := rfl
@[simp] theorem State.acknowledgeDone_h (v : BusWord) : (s.acknowledgeDone v).h = s.h := rfl
@[simp] theorem State.acknowledgeDone_sig (v : BusWord) : (s.acknowledgeDone v).sig = s.sig := rfl
@[simp] theorem State.acknowledgeDone_port (v : BusWord) : (s.acknowledgeDone v).port = s.port := rfl
@[simp] theorem State.acknowledgeDone_host (v : BusWord) : (s.acknowledgeDone v).host = s.host := rfl
@[simp] theorem State.acknowledgeDone_responses (v : BusWord) : (s.acknowledgeDone v).responses = s.responses := rfl

/-! ### `State.answer` -/

@[simp] theorem State.answer_build (r : Response) : (s.answer r).build = s.build := rfl
@[simp] theorem State.answer_ctrlIe (r : Response) : (s.answer r).ctrlIe = s.ctrlIe := rfl
@[simp] theorem State.answer_status (r : Response) : (s.answer r).status = s.status := rfl
@[simp] theorem State.answer_hlen (r : Response) : (s.answer r).hlen = s.hlen := rfl
@[simp] theorem State.answer_siglen (r : Response) : (s.answer r).siglen = s.siglen := rfl
@[simp] theorem State.answer_gcpar (r : Response) : (s.answer r).gcpar = s.gcpar := rfl
@[simp] theorem State.answer_nbits (r : Response) : (s.answer r).nbits = s.nbits := rfl
@[simp] theorem State.answer_p (r : Response) : (s.answer r).p = s.p := rfl
@[simp] theorem State.answer_a (r : Response) : (s.answer r).a = s.a := rfl
@[simp] theorem State.answer_b (r : Response) : (s.answer r).b = s.b := rfl
@[simp] theorem State.answer_n (r : Response) : (s.answer r).n = s.n := rfl
@[simp] theorem State.answer_gcx (r : Response) : (s.answer r).gcx = s.gcx := rfl
@[simp] theorem State.answer_d (r : Response) : (s.answer r).d = s.d := rfl
@[simp] theorem State.answer_sreg (r : Response) : (s.answer r).sreg = s.sreg := rfl
@[simp] theorem State.answer_pt (r : Response) : (s.answer r).pt = s.pt := rfl
@[simp] theorem State.answer_g (r : Response) : (s.answer r).g = s.g := rfl
@[simp] theorem State.answer_sigr (r : Response) : (s.answer r).sigr = s.sigr := rfl
@[simp] theorem State.answer_sigs (r : Response) : (s.answer r).sigs = s.sigs := rfl
@[simp] theorem State.answer_h (r : Response) : (s.answer r).h = s.h := rfl
@[simp] theorem State.answer_sig (r : Response) : (s.answer r).sig = s.sig := rfl
@[simp] theorem State.answer_port (r : Response) : (s.answer r).port = s.port := rfl
@[simp] theorem State.answer_host (r : Response) : (s.answer r).host = s.host.tail := rfl
@[simp] theorem State.answer_responses (r : Response) : (s.answer r).responses = r :: s.responses := rfl

/-! ### `State.dropEvent` -/

@[simp] theorem State.dropEvent_build : (s.dropEvent).build = s.build := rfl
@[simp] theorem State.dropEvent_ctrlIe : (s.dropEvent).ctrlIe = s.ctrlIe := rfl
@[simp] theorem State.dropEvent_status : (s.dropEvent).status = s.status := rfl
@[simp] theorem State.dropEvent_hlen : (s.dropEvent).hlen = s.hlen := rfl
@[simp] theorem State.dropEvent_siglen : (s.dropEvent).siglen = s.siglen := rfl
@[simp] theorem State.dropEvent_gcpar : (s.dropEvent).gcpar = s.gcpar := rfl
@[simp] theorem State.dropEvent_nbits : (s.dropEvent).nbits = s.nbits := rfl
@[simp] theorem State.dropEvent_p : (s.dropEvent).p = s.p := rfl
@[simp] theorem State.dropEvent_a : (s.dropEvent).a = s.a := rfl
@[simp] theorem State.dropEvent_b : (s.dropEvent).b = s.b := rfl
@[simp] theorem State.dropEvent_n : (s.dropEvent).n = s.n := rfl
@[simp] theorem State.dropEvent_gcx : (s.dropEvent).gcx = s.gcx := rfl
@[simp] theorem State.dropEvent_d : (s.dropEvent).d = s.d := rfl
@[simp] theorem State.dropEvent_sreg : (s.dropEvent).sreg = s.sreg := rfl
@[simp] theorem State.dropEvent_pt : (s.dropEvent).pt = s.pt := rfl
@[simp] theorem State.dropEvent_g : (s.dropEvent).g = s.g := rfl
@[simp] theorem State.dropEvent_sigr : (s.dropEvent).sigr = s.sigr := rfl
@[simp] theorem State.dropEvent_sigs : (s.dropEvent).sigs = s.sigs := rfl
@[simp] theorem State.dropEvent_h : (s.dropEvent).h = s.h := rfl
@[simp] theorem State.dropEvent_sig : (s.dropEvent).sig = s.sig := rfl
@[simp] theorem State.dropEvent_port : (s.dropEvent).port = s.port := rfl
@[simp] theorem State.dropEvent_host : (s.dropEvent).host = s.host.tail := rfl
@[simp] theorem State.dropEvent_responses : (s.dropEvent).responses = s.responses := rfl

/-! ### `State.resetCore` -/

@[simp] theorem State.resetCore_build : (s.resetCore).build = s.build := rfl
@[simp] theorem State.resetCore_ctrlIe : (s.resetCore).ctrlIe = (State.resetOf s.build).ctrlIe := rfl
@[simp] theorem State.resetCore_status : (s.resetCore).status = (State.resetOf s.build).status := rfl
@[simp] theorem State.resetCore_hlen : (s.resetCore).hlen = (State.resetOf s.build).hlen := rfl
@[simp] theorem State.resetCore_siglen : (s.resetCore).siglen = (State.resetOf s.build).siglen := rfl
@[simp] theorem State.resetCore_gcpar : (s.resetCore).gcpar = (State.resetOf s.build).gcpar := rfl
@[simp] theorem State.resetCore_nbits : (s.resetCore).nbits = (State.resetOf s.build).nbits := rfl
@[simp] theorem State.resetCore_p : (s.resetCore).p = (State.resetOf s.build).p := rfl
@[simp] theorem State.resetCore_a : (s.resetCore).a = (State.resetOf s.build).a := rfl
@[simp] theorem State.resetCore_b : (s.resetCore).b = (State.resetOf s.build).b := rfl
@[simp] theorem State.resetCore_n : (s.resetCore).n = (State.resetOf s.build).n := rfl
@[simp] theorem State.resetCore_gcx : (s.resetCore).gcx = (State.resetOf s.build).gcx := rfl
@[simp] theorem State.resetCore_d : (s.resetCore).d = (State.resetOf s.build).d := rfl
@[simp] theorem State.resetCore_sreg : (s.resetCore).sreg = (State.resetOf s.build).sreg := rfl
@[simp] theorem State.resetCore_pt : (s.resetCore).pt = (State.resetOf s.build).pt := rfl
@[simp] theorem State.resetCore_g : (s.resetCore).g = (State.resetOf s.build).g := rfl
@[simp] theorem State.resetCore_sigr : (s.resetCore).sigr = (State.resetOf s.build).sigr := rfl
@[simp] theorem State.resetCore_sigs : (s.resetCore).sigs = (State.resetOf s.build).sigs := rfl
@[simp] theorem State.resetCore_h : (s.resetCore).h = (State.resetOf s.build).h := rfl
@[simp] theorem State.resetCore_sig : (s.resetCore).sig = (State.resetOf s.build).sig := rfl
@[simp] theorem State.resetCore_port : (s.resetCore).port = s.port := rfl
@[simp] theorem State.resetCore_host : (s.resetCore).host = s.host := rfl
@[simp] theorem State.resetCore_responses : (s.resetCore).responses = s.responses := rfl

end Sys2Proof.Machine
end

