-- ==== Sys2Proof/Laws/Ops.lean ====
section
/-!
SUPPORT. One lemma per shared operation that says once what it can do.
-/

namespace Sys2Proof.Machine

open Sys2Proof

/-! ### Outcomes of the shared operations -/

theorem State.raise_eq (s : State) (e : CmdError) :
    s.raise e = { s with status := s.status.ended false e.kind.code e.info } := rfl

theorem State.succeed_eq (s : State) :
    s.succeed = { s with status := s.status.ended false 0 0 } := rfl

/-- The lock stage: the body on a locked core, `NotInitialised` on an unlocked one. -/
theorem State.whenLocked_cases (s : State) (body : Result) :
    (s.status.locked = true ∧ s.whenLocked body = body) ∨
    (s.status.locked = false ∧ s.whenLocked body = .next (s.raise { kind := .notInitialised, info := 0 })) := by
  cases h : s.status.locked <;> simp [State.whenLocked, h]

@[simp] theorem State.whenLocked_locked {s : State} (body : Result) (h : s.status.locked = true) :
    s.whenLocked body = body := by simp [State.whenLocked, h]

@[simp] theorem State.whenLocked_unlocked {s : State} (body : Result) (h : s.status.locked = false) :
    s.whenLocked body = .next (s.raise { kind := .notInitialised, info := 0 }) := by
  simp [State.whenLocked, h]

/-- A point source: its register, or `IllegalCommand(2)`. -/
theorem State.withSource_cases (s : State) (j : BitVec 4) (use : PointReg → Result) :
    (∃ q, s.pointSource j = some q ∧ s.withSource j use = use q) ∨
    (s.pointSource j = none ∧ s.withSource j use = .next (s.raise reservedIndex)) := by
  cases h : s.pointSource j <;> simp [State.withSource, h]

theorem State.withSource_some {s : State} {j : BitVec 4} {q : PointReg} (use : PointReg → Result)
    (h : s.pointSource j = some q) : s.withSource j use = use q := by simp [State.withSource, h]

theorem State.pointSource_isSome (s : State) (j : BitVec 4) :
    (s.pointSource j).isSome = validPointSource j := by
  unfold State.pointSource validPointSource
  split
  · simp; omega
  · split <;> simp <;> omega

theorem State.finishScalar_cases (s : State) (rd : Fin 8) (r : Except CmdError Nat) :
    (∃ v, r = .ok v ∧ s.finishScalar rd r = .next (s.setS rd v).succeed) ∨
    (∃ e, r = .error e ∧ s.finishScalar rd r = .next (s.raise e)) := by
  cases r <;> simp [State.finishScalar]

theorem State.finishPoint_cases (s : State) (rd : Fin 4) (r : Except CmdError Point) :
    (∃ v, r = .ok v ∧ s.finishPoint rd r = .next (s.setPt rd v).succeed) ∨
    (∃ e, r = .error e ∧ s.finishPoint rd r = .next (s.raise e)) := by
  cases r <;> simp [State.finishPoint]

/-- Reading a point operand: its value when `Infinity` or in range, else `OperandRange(2)`. -/
theorem State.readPoint_cases (s : State) (q : PointReg) :
    ((q.inf = true ∨ (q.x.toNat < s.p.toNat ∧ q.y.toNat < s.p.toNat)) ∧ s.readPoint q = .ok q.value) ∨
    (¬ (q.inf = true ∨ (q.x.toNat < s.p.toNat ∧ q.y.toNat < s.p.toNat)) ∧ s.readPoint q = .error pointRange) := by
  cases h : q.inf
  · by_cases hr : q.x.toNat < s.p.toNat ∧ q.y.toNat < s.p.toNat
    · simp [State.readPoint, PointReg.value, h, hr]
    · simp [State.readPoint, PointReg.value, h, hr]
  · simp [State.readPoint, PointReg.value, h]

theorem inverseOrRaise_cases (x m : Nat) :
    (∃ v, inverse x m = some v ∧ inverseOrRaise x m = .ok v) ∨
    (inverse x m = none ∧ inverseOrRaise x m = .error noInverse) := by
  cases h : inverse x m <;> simp [inverseOrRaise, h]

/-! ### Numbers in registers -/

theorem toWord_toNat {v : Nat} (h : v < 2 ^ 256) : (toWord v).toNat = v := by
  rw [toWord, BitVec.toNat_ofNat, Nat.mod_eq_of_lt h]

theorem toWord_of_toNat (x : Word) : toWord x.toNat = x := by simp [toWord]

theorem residue_lt {x : Int} {m : Nat} (h : 0 < m) : residue x m < m := by
  have h0 : (0 : Int) < m := by exact_mod_cast h
  have h1 := Int.emod_nonneg x h0.ne'
  have h2 := Int.emod_lt_of_pos x h0
  unfold residue
  omega

theorem residue_natCast (x m : Nat) : residue (x : Int) m = x % m := by
  unfold residue
  rw [← Int.natCast_emod]
  exact Int.toNat_natCast _

theorem PointReg.value_ofPoint_finite {x y : Nat} (hx : x < 2 ^ 256) (hy : y < 2 ^ 256) :
    (PointReg.ofPoint (.finite x y)).value = .finite x y := by
  simp [PointReg.ofPoint, PointReg.value, toWord_toNat hx, toWord_toNat hy]

@[simp] theorem PointReg.value_ofPoint_infinity : (PointReg.ofPoint .infinity).value = .infinity := rfl

/-! ### Buffers -/

theorem overwrite_eq_append (new old : List Byte) (h : new.length ≤ old.length) :
    overwrite new old = new ++ old.drop new.length := by
  induction new generalizing old with
  | nil => cases old <;> rfl
  | cons v vs ih =>
    cases old with
    | nil => simp at h
    | cons o os => simp [overwrite, ih os (by simpa using h)]

theorem overwriteBuffer_toList {k : Nat} (new : List Byte) (old : Vector Byte k) :
    (overwriteBuffer new old).toList = overwrite new old.toList := rfl

/-! ### The random-number port -/

theorem Port.randBits_lt (port : Port) (k : Nat) : (port.randBits k).1 < 2 ^ k := by
  unfold Port.randBits
  split <;> exact Nat.mod_lt _ (Nat.two_pow_pos k)

theorem Port.randBits_cons {v : Word} {rest : List Word} {taken k : Nat} :
    ({ queue := v :: rest, taken := taken } : Port).randBits k =
      (v.toNat % 2 ^ k, { queue := rest, taken := taken + 1 }) := rfl

/-- A retry loop over lined-up draws whose rounds fail, then one that exits. -/
theorem retryLoop_first {α : Type} (k : Nat) (round : Nat → Except CmdError (Option α)) (before : List Word)
    (v : Word) (rest : List Word) (w : α) (taken rounds : Nat)
    (hb : ∀ z ∈ before, round (z.toNat % 2 ^ k) = .ok none)
    (hv : round (v.toNat % 2 ^ k) = .ok (some w)) :
    retryLoop k round (before.length + 1 + rounds) { queue := before ++ v :: rest, taken := taken } =
      .done w { queue := rest, taken := taken + before.length + 1 } := by
  induction before generalizing taken with
  | nil =>
    have : 0 + 1 + rounds = rounds + 1 := by omega
    simp [this, retryLoop, Port.randBits, hv]
  | cons z zs ih =>
    have h1 : (z :: zs).length + 1 + rounds = (zs.length + 1 + rounds) + 1 := by simp; omega
    have h2 := ih (taken + 1) (fun y hy => hb y (by simp [hy]))
    rw [h1]
    simp only [retryLoop, List.cons_append, Port.randBits, hb z (by simp)]
    rw [h2]
    simp
    omega

/-- The same as a command runs it: the draws lined up are enough. -/
theorem Port.retry_first {α : Type} (k : Nat) (round : Nat → Except CmdError (Option α)) (before : List Word)
    (v : Word) (rest : List Word) (w : α) (port : Port) (hq : port.queue = before ++ v :: rest)
    (hb : ∀ z ∈ before, round (z.toNat % 2 ^ k) = .ok none)
    (hv : round (v.toNat % 2 ^ k) = .ok (some w)) :
    port.retry k round = .done w { queue := rest, taken := port.taken + before.length + 1 } := by
  obtain ⟨queue, taken⟩ := port
  subst hq
  have h : Config.freeRounds taken + (before ++ v :: rest).length =
      before.length + 1 + (rest.length + Config.freeRounds taken) := by simp; omega
  unfold Port.retry
  rw [h]
  exact retryLoop_first k round before v rest w taken _ hb hv

/-- A retry loop none of whose draws ends it has no end (R28). -/
theorem retryLoop_endless {α : Type} (k : Nat) (round : Nat → Except CmdError (Option α))
    (hf : ∀ m, round ((Config.freeDraw m).toNat % 2 ^ k) = .ok none) (rounds : Nat) :
    ∀ port : Port, (∀ z ∈ port.queue, round (z.toNat % 2 ^ k) = .ok none) →
      retryLoop k round rounds port = .endless := by
  induction rounds with
  | zero => exact fun _ _ => rfl
  | succ rounds ih =>
    rintro ⟨queue, taken⟩ hq
    cases queue with
    | nil => simpa [retryLoop, Port.randBits, hf] using ih ⟨[], taken + 1⟩ (by simp)
    | cons z zs =>
      simpa [retryLoop, Port.randBits, hq z (by simp)] using
        ih ⟨zs, taken + 1⟩ fun y hy => hq y (by simp [hy])

/-- A retry loop without an end has rejected every draw lined up for its rounds. -/
theorem retryLoop_endless_rejects {α : Type} (k : Nat) (round : Nat → Except CmdError (Option α))
    (rounds : Nat) : ∀ port : Port, port.queue.length ≤ rounds → retryLoop k round rounds port = .endless →
      ∀ z ∈ port.queue, round (z.toNat % 2 ^ k) = .ok none := by
  induction rounds with
  | zero =>
    intro port hl _ z hz
    exact absurd hz (by simp [List.length_eq_zero_iff.mp (Nat.le_zero.mp hl)])
  | succ rounds ih =>
    rintro ⟨queue, taken⟩ hl he z hz
    cases queue with
    | nil => simp at hz
    | cons y ys =>
      simp only [retryLoop, Port.randBits] at he
      cases hr : round (y.toNat % 2 ^ k) with
      | error e => simp [hr] at he
      | ok o =>
        cases o with
        | some v => simp [hr] at he
        | none =>
          rw [hr] at he
          rcases List.mem_cons.mp hz with rfl | hz
          · exact hr
          · exact ih ⟨ys, taken + 1⟩ (by simpa using hl) he z hz

end Sys2Proof.Machine
end

