-- ==== Sys2Proof/Laws/Curve.lean ====
section
/-!
SUPPORT. What the shared computations of the solver, the curve and the codec can answer: one inversion
lemma each, for proofs to cite instead of unfolding.
-/

namespace Sys2Proof.Machine

open Sys2Proof

/-- `Dbl` (R174): the identity where the tangent is vertical, the formula, or a missing inverse. -/
theorem double_cases (p a : Nat) (q : Point) :
    ((q = .infinity ∨ ∃ x, q = .finite x 0) ∧ double p a q = .ok .infinity) ∨
    (∃ x y, q = .finite x y ∧ y ≠ 0 ∧
      ((∃ v, inverse (2 * y % p) p = some v ∧
          double p a q = .ok (thirdPoint p ((3 * x * x + a) * v % p) x y x)) ∨
       (inverse (2 * y % p) p = none ∧ double p a q = .error noInverse))) := by
  cases q with
  | infinity => exact .inl ⟨.inl rfl, rfl⟩
  | finite x y =>
    by_cases hy : y = 0
    · subst hy
      exact .inl ⟨.inr ⟨x, rfl⟩, by simp [double]⟩
    · refine .inr ⟨x, y, rfl, hy, ?_⟩
      rcases inverseOrRaise_cases (2 * y % p) p with ⟨v, h1, h2⟩ | ⟨h1, h2⟩
      · exact .inl ⟨v, h1, by simp [double, hy, h2]⟩
      · exact .inr ⟨h1, by simp [double, hy, h2]⟩

/-- `Add` (R173): the other operand, the double, the identity, the formula, or a missing inverse. -/
theorem add_cases (p a : Nat) (p1 p2 : Point) :
    (p1 = .infinity ∧ add p a p1 p2 = .ok p2) ∨
    (p2 = .infinity ∧ add p a p1 p2 = .ok p1) ∨
    (p1 = p2 ∧ add p a p1 p2 = double p a p1) ∨
    (∃ x y1 y2, p1 = .finite x y1 ∧ p2 = .finite x y2 ∧ y1 ≠ y2 ∧ add p a p1 p2 = .ok .infinity) ∨
    (∃ x1 y1 x2 y2, p1 = .finite x1 y1 ∧ p2 = .finite x2 y2 ∧ x1 ≠ x2 ∧
      ((∃ v, inverse (residue ((x2 : Int) - x1) p) p = some v ∧
          add p a p1 p2 = .ok (thirdPoint p (residue (((y2 : Int) - y1) * v) p) x1 y1 x2)) ∨
       (inverse (residue ((x2 : Int) - x1) p) p = none ∧ add p a p1 p2 = .error noInverse))) := by
  cases p1 with
  | infinity => exact .inl ⟨rfl, rfl⟩
  | finite x1 y1 =>
    cases p2 with
    | infinity => exact .inr (.inl ⟨rfl, rfl⟩)
    | finite x2 y2 =>
      by_cases hx : x1 = x2
      · subst hx
        by_cases hy : y1 = y2
        · subst hy
          exact .inr (.inr (.inl ⟨rfl, by simp [add]⟩))
        · exact .inr (.inr (.inr (.inl ⟨x1, y1, y2, rfl, rfl, hy, by simp [add, hy]⟩)))
      · refine .inr (.inr (.inr (.inr ⟨x1, y1, x2, y2, rfl, rfl, hx, ?_⟩)))
        rcases inverseOrRaise_cases (residue ((x2 : Int) - x1) p) p with ⟨v, h1, h2⟩ | ⟨h1, h2⟩
        · exact .inl ⟨v, h1, by simp [add, hx, h2]⟩
        · exact .inr ⟨h1, by simp [add, hx, h2]⟩

/-- `Sqrt` (R161 to R164): 0, one of the two errors, or the refinement from a sampled `b`. -/
theorem sqrt_cases (a q limit : Nat) (port : Port) :
    (a % q = 0 ∧ sqrt a q limit port = (.ok 0, port)) ∨
    (a % q ≠ 0 ∧ legendre (a % q) q ≠ 1 ∧ sqrt a q limit port = (.error (nonResidue 0), port)) ∨
    (a % q ≠ 0 ∧ legendre (a % q) q = 1 ∧ ∃ port',
      (sampleNonResidue q limit port = (none, port') ∧ sqrt a q limit port = (.error (nonResidue 1), port')) ∨
      (∃ b, sampleNonResidue q limit port = (some b, port') ∧
        sqrt a q limit port = (rootFrom (a % q) q b, port'))) := by
  by_cases h0 : a % q = 0
  · exact .inl ⟨h0, by simp [sqrt, h0]⟩
  · by_cases h1 : legendre (a % q) q = 1
    · refine .inr (.inr ⟨h0, h1, ?_⟩)
      rcases hs : sampleNonResidue q limit port with ⟨b | b, port'⟩
      · exact ⟨port', .inl ⟨rfl, by simp [sqrt, h0, h1, hs]⟩⟩
      · exact ⟨port', .inr ⟨b, rfl, by simp [sqrt, h0, h1, hs]⟩⟩
    · exact .inr (.inl ⟨h0, h1, by simp [sqrt, h0, h1]⟩)

/-- `Decompress` (R170): the point of the root with the wanted parity, or the solver's error renamed. -/
theorem decompress_cases (p a b par x limit : Nat) (port : Port) :
    (∃ beta port', sqrt (curveRhs p a b x) p limit port = (.ok beta, port') ∧
      decompress p a b par x limit port = (.ok (.finite x (pickRoot p par beta)), port')) ∨
    (∃ e port', sqrt (curveRhs p a b x) p limit port = (.error e, port') ∧
      decompress p a b par x limit port = (.error (decompressError e), port')) := by
  rcases hs : sqrt (curveRhs p a b x) p limit port with ⟨e | beta, port'⟩
  · exact .inr ⟨e, port', rfl, by simp [decompress, hs]⟩
  · exact .inl ⟨beta, port', rfl, by simp [decompress, hs]⟩

/-- `SigDecode` (R199): a wrong length, a byte that is no digit, or the two values. -/
theorem State.sigDecode_cases (s : State) :
    (s.siglen.toNat ≠ 2 * s.hexw ∧ s.sigDecode = .error (malformed 1)) ∨
    (s.siglen.toNat = 2 * s.hexw ∧ (∃ c ∈ s.sig.toList.take (2 * s.hexw), hexval c = none) ∧
      s.sigDecode = .error (malformed 2)) ∨
    (s.siglen.toNat = 2 * s.hexw ∧ (∀ c ∈ s.sig.toList.take (2 * s.hexw), (hexval c).isSome = true) ∧
      s.sigDecode = .ok (hexdec ((s.sig.toList.take (2 * s.hexw)).take s.hexw),
        hexdec ((s.sig.toList.take (2 * s.hexw)).drop s.hexw))) := by
  by_cases hl : s.siglen.toNat = 2 * s.hexw
  · by_cases hc : (s.sig.toList.take (2 * s.hexw)).all (fun c => (hexval c).isSome) = true
    · exact .inr (.inr ⟨hl, List.all_eq_true.mp hc, by simp only [State.sigDecode, hl, hc]; simp⟩)
    · refine .inr (.inl ⟨hl, ?_, by simp only [State.sigDecode, hl, hc]; simp⟩)
      by_contra hn
      exact hc (List.all_eq_true.mpr fun c hm => by
        cases hv : hexval c with
        | none => exact absurd ⟨c, hm, hv⟩ hn
        | some v => rfl)
  · exact .inl ⟨hl, by simp [State.sigDecode, hl]⟩

end Sys2Proof.Machine
end

