-- ==== Sys2Proof/Laws/PerInstr.lean ====
section
/-!
SUPPORT. The family of statements made once for every command: its word is in its row of the opcode table.
-/

namespace Sys2Proof.Laws.TableRow

open Sys2Proof

/-- The word of a legal command is in the row of spec/opcode_table.json that has its mnemonic, meets that
row's constraint, and has the row's opcode (R103, R105, R106). -/
def Statement (i : Instr) : Prop :=
  i.wellFormed = true →
    (∃ r ∈ opcodeTable, r.mnemonic = i.mnemonic ∧ r.matches (encode i) = true) ∧
    i.mnemonic.constraint (encode i) = true ∧ fieldOp (encode i) = i.mnemonic.code

/-- The bits of a command word, field by field (R101). -/
theorem getLsbD_packWord (op : Byte) (rd ra rb : BitVec 4) (imm : BitVec 12) (k : Nat) :
    (packWord op rd ra rb imm).getLsbD k =
      if k < 8 then op.getLsbD k
      else if k - 8 < 4 then rd.getLsbD (k - 8)
      else if k - 8 - 4 < 4 then ra.getLsbD (k - 8 - 4)
      else if k - 8 - 4 - 4 < 4 then rb.getLsbD (k - 8 - 4 - 4)
      else imm.getLsbD (k - 8 - 4 - 4 - 4) := by
  refine (BitVec.getLsbD_append (x := ((imm ++ rb) ++ ra) ++ rd) (y := op) (i := k)).trans ?_
  rw [BitVec.getLsbD_append, BitVec.getLsbD_append, BitVec.getLsbD_append]

/-- Masking a command word masks its five fields. -/
theorem packWord_and (op op' : Byte) (rd rd' ra ra' rb rb' : BitVec 4) (imm imm' : BitVec 12) :
    packWord op rd ra rb imm &&& packWord op' rd' ra' rb' imm' =
      packWord (op &&& op') (rd &&& rd') (ra &&& ra') (rb &&& rb') (imm &&& imm') := by
  apply BitVec.eq_of_getLsbD_eq
  intro k _
  simp only [BitVec.getLsbD_and, getLsbD_packWord]
  split_ifs <;> rfl

theorem fieldOp_packWord (op : Byte) (rd ra rb : BitVec 4) (imm : BitVec 12) :
    fieldOp (packWord op rd ra rb imm) = op := by
  apply BitVec.eq_of_getLsbD_eq
  intro k hk
  rw [fieldOp, BitVec.getLsbD_extractLsb', getLsbD_packWord, if_pos (by omega)]
  simp [hk]

theorem fieldRa_packWord (op : Byte) (rd ra rb : BitVec 4) (imm : BitVec 12) :
    fieldRa (packWord op rd ra rb imm) = ra := by
  apply BitVec.eq_of_getLsbD_eq
  intro k hk
  rw [fieldRa, BitVec.getLsbD_extractLsb', getLsbD_packWord, if_neg (by omega), if_neg (by omega),
    if_pos (by omega), show 12 + k - 8 - 4 = k by omega]
  simp [hk]

theorem fieldRb_packWord (op : Byte) (rd ra rb : BitVec 4) (imm : BitVec 12) :
    fieldRb (packWord op rd ra rb imm) = rb := by
  apply BitVec.eq_of_getLsbD_eq
  intro k hk
  rw [fieldRb, BitVec.getLsbD_extractLsb', getLsbD_packWord, if_neg (by omega), if_neg (by omega),
    if_neg (by omega), if_pos (by omega), show 16 + k - 8 - 4 - 4 = k by omega]
  simp [hk]

/-- A command whose fields avoid the row's zero bits is in the row. -/
theorem of_fields {i : Instr} {rd ra rb : BitVec 4} {imm : BitVec 12} (r : Row) (mrd mra mrb : BitVec 4)
    (mimm : BitVec 12) (he : encode i = packWord i.mnemonic.code rd ra rb imm) (hr : r ∈ opcodeTable)
    (hk : r.mnemonic = i.mnemonic) (hm : r.mask = packWord 0xFF mrd mra mrb mimm)
    (hp : r.pattern = packWord r.mnemonic.code 0 0 0 0) (hrd : rd &&& mrd = 0) (hra : ra &&& mra = 0)
    (hrb : rb &&& mrb = 0) (himm : imm &&& mimm = 0)
    (hc : i.wellFormed = true → i.mnemonic.constraint (encode i) = true) : Statement i := by
  intro hw
  refine ⟨⟨r, hr, hk, ?_⟩, hc hw, ?_⟩
  · have hop : i.mnemonic.code &&& 0xFF = i.mnemonic.code := BitVec.and_allOnes
    rw [Row.matches, he, hm, packWord_and, hrd, hra, hrb, himm, hop, hp, hk]
    exact beq_self_eq_true _
  · rw [he, fieldOp_packWord]

theorem scalarField_and (j : Fin 8) : scalarField j &&& 8 = 0 := by revert j; decide
theorem pointField_and (j : Fin 4) : pointField j &&& 12 = 0 := by revert j; decide
theorem modSel_and (m : ModSel) : m.imm &&& 0xFFE = 0 := by cases m <;> decide
theorem parity_and (par : Byte) : par.setWidth 12 &&& (0xF00 : BitVec 12) = 0 := by
  apply BitVec.eq_of_getLsbD_eq
  intro k hk
  interval_cases k <;> simp

theorem init : Statement (.init) :=
  of_fields ⟨.init, 0x00000001, 0xFFFFFFFF⟩ 0xF 0xF 0xF 0xFFF rfl (by decide) rfl (by decide) (by decide)
    BitVec.zero_and BitVec.zero_and BitVec.zero_and BitVec.zero_and
    (fun _ => rfl)

theorem zeroize : Statement (.zeroize) :=
  of_fields ⟨.zeroize, 0x00000002, 0xFFFFFFFF⟩ 0xF 0xF 0xF 0xFFF rfl (by decide) rfl (by decide) (by decide)
    BitVec.zero_and BitVec.zero_and BitVec.zero_and BitVec.zero_and
    (fun _ => rfl)

theorem modadd (rd : Fin 8) (ra : Fin 8) (rb : Fin 8) (m : ModSel) : Statement (.modadd rd ra rb m) :=
  of_fields ⟨.modadd, 0x00000010, 0xFFE888FF⟩ 0x8 0x8 0x8 0xFFE rfl (by decide) rfl (by decide) (by decide)
    (scalarField_and rd) (scalarField_and ra) (scalarField_and rb) (modSel_and m)
    (fun _ => rfl)

theorem modsub (rd : Fin 8) (ra : Fin 8) (rb : Fin 8) (m : ModSel) : Statement (.modsub rd ra rb m) :=
  of_fields ⟨.modsub, 0x00000011, 0xFFE888FF⟩ 0x8 0x8 0x8 0xFFE rfl (by decide) rfl (by decide) (by decide)
    (scalarField_and rd) (scalarField_and ra) (scalarField_and rb) (modSel_and m)
    (fun _ => rfl)

theorem modmul (rd : Fin 8) (ra : Fin 8) (rb : Fin 8) (m : ModSel) : Statement (.modmul rd ra rb m) :=
  of_fields ⟨.modmul, 0x00000012, 0xFFE888FF⟩ 0x8 0x8 0x8 0xFFE rfl (by decide) rfl (by decide) (by decide)
    (scalarField_and rd) (scalarField_and ra) (scalarField_and rb) (modSel_and m)
    (fun _ => rfl)

theorem mmul (rd : Fin 8) (ra : Fin 8) (rb : Fin 8) (m : ModSel) : Statement (.mmul rd ra rb m) :=
  of_fields ⟨.mmul, 0x00000013, 0xFFE888FF⟩ 0x8 0x8 0x8 0xFFE rfl (by decide) rfl (by decide) (by decide)
    (scalarField_and rd) (scalarField_and ra) (scalarField_and rb) (modSel_and m)
    (fun _ => rfl)

theorem modred (rd : Fin 8) (ra : Fin 8) (m : ModSel) : Statement (.modred rd ra m) :=
  of_fields ⟨.modred, 0x00000014, 0xFFEF88FF⟩ 0x8 0x8 0xF 0xFFE rfl (by decide) rfl (by decide) (by decide)
    (scalarField_and rd) (scalarField_and ra) BitVec.zero_and (modSel_and m)
    (fun _ => rfl)

theorem modexp (rd : Fin 8) (ra : Fin 8) (rb : Fin 8) (m : ModSel) : Statement (.modexp rd ra rb m) :=
  of_fields ⟨.modexp, 0x00000015, 0xFFE888FF⟩ 0x8 0x8 0x8 0xFFE rfl (by decide) rfl (by decide) (by decide)
    (scalarField_and rd) (scalarField_and ra) (scalarField_and rb) (modSel_and m)
    (fun _ => rfl)

theorem modinv (rd : Fin 8) (ra : Fin 8) (m : ModSel) : Statement (.modinv rd ra m) :=
  of_fields ⟨.modinv, 0x00000016, 0xFFEF88FF⟩ 0x8 0x8 0xF 0xFFE rfl (by decide) rfl (by decide) (by decide)
    (scalarField_and rd) (scalarField_and ra) BitVec.zero_and (modSel_and m)
    (fun _ => rfl)

theorem legendre (rd : Fin 8) (ra : Fin 8) (m : ModSel) : Statement (.legendre rd ra m) :=
  of_fields ⟨.legendre, 0x00000017, 0xFFEF88FF⟩ 0x8 0x8 0xF 0xFFE rfl (by decide) rfl (by decide) (by decide)
    (scalarField_and rd) (scalarField_and ra) BitVec.zero_and (modSel_and m)
    (fun _ => rfl)

theorem modsqrt (rd : Fin 8) (ra : Fin 8) (m : ModSel) : Statement (.modsqrt rd ra m) :=
  of_fields ⟨.modsqrt, 0x00000018, 0xFFEF88FF⟩ 0x8 0x8 0xF 0xFFE rfl (by decide) rfl (by decide) (by decide)
    (scalarField_and rd) (scalarField_and ra) BitVec.zero_and (modSel_and m)
    (fun _ => rfl)

theorem pdecomp (rd : Fin 4) (ra : Fin 8) (par : Byte) : Statement (.pdecomp rd ra par) :=
  of_fields ⟨.pdecomp, 0x00000020, 0xF00F8CFF⟩ 0xC 0x8 0xF 0xF00 rfl (by decide) rfl (by decide) (by decide)
    (pointField_and rd) (scalarField_and ra) BitVec.zero_and (parity_and par)
    (fun _ => rfl)

theorem padd (rd : Fin 4) (ra : BitVec 4) (rb : BitVec 4) : Statement (.padd rd ra rb) :=
  of_fields ⟨.padd, 0x00000021, 0xFFF00CFF⟩ 0xC 0x0 0x0 0xFFF rfl (by decide) rfl (by decide) (by decide)
    (pointField_and rd) BitVec.and_zero BitVec.and_zero BitVec.zero_and
    (fun h => by simpa [Instr.wellFormed, Instr.mnemonic, Mnemonic.constraint, encode, fieldRa_packWord,
      fieldRb_packWord] using h)

theorem pdbl (rd : Fin 4) (ra : BitVec 4) : Statement (.pdbl rd ra) :=
  of_fields ⟨.pdbl, 0x00000022, 0xFFFF0CFF⟩ 0xC 0x0 0xF 0xFFF rfl (by decide) rfl (by decide) (by decide)
    (pointField_and rd) BitVec.and_zero BitVec.zero_and BitVec.zero_and
    (fun h => by simpa [Instr.wellFormed, Instr.mnemonic, Mnemonic.constraint, encode, fieldRa_packWord] using h)

theorem psmul (rd : Fin 4) (ra : BitVec 4) (rb : Fin 8) : Statement (.psmul rd ra rb) :=
  of_fields ⟨.psmul, 0x00000023, 0xFFF80CFF⟩ 0xC 0x0 0x8 0xFFF rfl (by decide) rfl (by decide) (by decide)
    (pointField_and rd) BitVec.and_zero (scalarField_and rb) BitVec.zero_and
    (fun h => by simpa [Instr.wellFormed, Instr.mnemonic, Mnemonic.constraint, encode, fieldRa_packWord] using h)

theorem keygen (bits : BitVec 12) : Statement (.keygen bits) :=
  of_fields ⟨.keygen, 0x00000030, 0x000FFFFF⟩ 0xF 0xF 0xF 0x000 rfl (by decide) rfl (by decide) (by decide)
    BitVec.zero_and BitVec.zero_and BitVec.zero_and BitVec.and_zero
    (fun _ => rfl)

theorem pubkey (rd : Fin 4) : Statement (.pubkey rd) :=
  of_fields ⟨.pubkey, 0x00000031, 0xFFFFFCFF⟩ 0xC 0xF 0xF 0xFFF rfl (by decide) rfl (by decide) (by decide)
    (pointField_and rd) BitVec.zero_and BitVec.zero_and BitVec.zero_and
    (fun _ => rfl)

theorem sign : Statement (.sign) :=
  of_fields ⟨.sign, 0x00000032, 0xFFFFFFFF⟩ 0xF 0xF 0xF 0xFFF rfl (by decide) rfl (by decide) (by decide)
    BitVec.zero_and BitVec.zero_and BitVec.zero_and BitVec.zero_and
    (fun _ => rfl)

theorem verify (ra : BitVec 4) : Statement (.verify ra) :=
  of_fields ⟨.verify, 0x00000033, 0xFFFF0FFF⟩ 0xF 0x0 0xF 0xFFF rfl (by decide) rfl (by decide) (by decide)
    BitVec.zero_and BitVec.and_zero BitVec.zero_and BitVec.zero_and
    (fun h => by simpa [Instr.wellFormed, Instr.mnemonic, Mnemonic.constraint, encode, fieldRa_packWord] using h)

theorem sigenc : Statement (.sigenc) :=
  of_fields ⟨.sigenc, 0x00000034, 0xFFFFFFFF⟩ 0xF 0xF 0xF 0xFFF rfl (by decide) rfl (by decide) (by decide)
    BitVec.zero_and BitVec.zero_and BitVec.zero_and BitVec.zero_and
    (fun _ => rfl)

theorem sigdec : Statement (.sigdec) :=
  of_fields ⟨.sigdec, 0x00000035, 0xFFFFFFFF⟩ 0xF 0xF 0xF 0xFFF rfl (by decide) rfl (by decide) (by decide)
    BitVec.zero_and BitVec.zero_and BitVec.zero_and BitVec.zero_and
    (fun _ => rfl)

end Sys2Proof.Laws.TableRow
end

