-- ==== Sys2Proof/Laws/Step.lean ====
section
/-!
SUPPORT. What one step can do, by the action of the host's next event.
-/

namespace Sys2Proof.Machine

open Sys2Proof

theorem State.nextAction_nil {s : State} (h : s.host = []) : s.nextAction = .idle := by
  simp [State.nextAction, h]

theorem State.nextAction_cons {s : State} {ev : HostEvent} {rest : List HostEvent} (h : s.host = ev :: rest) :
    s.nextAction = s.actionOf ev := by
  simp [State.nextAction, h]

/-- A step at a command write is the command followed by the end of the access. -/
theorem step_of_command {s : State} {w : BusWord} (h : s.nextAction = .command w) :
    step s = finishCommand (runCommand w s) := by
  simp [step, h]

/-- A step at any other action serves it. -/
theorem step_of_serve {s : State} (h : ∀ w, s.nextAction ≠ .command w) : step s = s.serve s.nextAction := by
  unfold step
  split
  · exact absurd ‹_› (h _)
  · rfl

/-- Every way a step answers a next state. -/
theorem step_next_cases {s t : State} (h : step s = .next t) :
    (∃ w u, s.nextAction = .command w ∧ runCommand w s = .next u ∧ t = u.answer .ack) ∨
    (s.nextAction = .idle ∧ t = s) ∨
    (s.nextAction = .reset ∧ t = s.resetCore.dropEvent) ∨
    (s.nextAction = .refused ∧ t = s.answer .busError) ∨
    (∃ off, s.nextAction = .read off ∧ t = s.answer (.data (s.memRead off))) ∨
    (∃ off v, s.nextAction = .write off v ∧ t = (s.memWrite off v).answer .ack) := by
  cases ha : s.nextAction with
  | command w =>
    rw [step_of_command ha] at h
    cases hr : runCommand w s with
    | next u =>
      rw [hr] at h
      simp only [finishCommand, Host.Outcome.next.injEq] at h
      exact .inl ⟨w, u, rfl, hr, h.symm⟩
    | fault f => rw [hr] at h; simp [finishCommand] at h
    | refused r => rw [hr] at h; simp [finishCommand] at h
  | idle =>
    rw [step_of_serve (by simp [ha]), ha] at h
    simp only [State.serve, Host.Outcome.next.injEq] at h
    simp [h]
  | reset =>
    rw [step_of_serve (by simp [ha]), ha] at h
    simp only [State.serve, Host.Outcome.next.injEq] at h
    simp [h]
  | outside addr =>
    rw [step_of_serve (by simp [ha]), ha] at h
    simp [State.serve] at h
  | refused =>
    rw [step_of_serve (by simp [ha]), ha] at h
    simp only [State.serve, Host.Outcome.next.injEq] at h
    simp [h]
  | read off =>
    rw [step_of_serve (by simp [ha]), ha] at h
    simp only [State.serve, Host.Outcome.next.injEq] at h
    simp [h]
  | write off v =>
    rw [step_of_serve (by simp [ha]), ha] at h
    simp only [State.serve, Host.Outcome.next.injEq] at h
    simp [h]

/-- The action of a write of a word to `CMD`. -/
theorem State.actionOf_command {s : State} {w : BusWord} (hb : s.build.base % 0x800 = 0) :
    s.actionOf (.write (s.build.base + 0x00C) 4 w) = .command w := by
  have h4 : (s.build.base + 0x00C) % 4 = 0 := by omega
  simp [State.actionOf, State.inWindow, windowSize, accepted, cmdOffset, h4]

/-- The action of an accepted read. -/
theorem State.actionOf_read {s : State} {off : Nat} (hb : s.build.base % 0x800 = 0) (ho : off < 0x800)
    (ha : off % 4 = 0) : s.actionOf (.read (s.build.base + off) 4) = .read off := by
  have h4 : (s.build.base + off) % 4 = 0 := by omega
  simp [State.actionOf, State.inWindow, windowSize, accepted, h4, ho]

/-- The action of an accepted write elsewhere than `CMD`. -/
theorem State.actionOf_write {s : State} {off : Nat} {v : BusWord} (hb : s.build.base % 0x800 = 0)
    (ho : off < 0x800) (ha : off % 4 = 0) (hc : off ≠ 0x00C) :
    s.actionOf (.write (s.build.base + off) 4 v) = .write off v := by
  have h4 : (s.build.base + off) % 4 = 0 := by omega
  simp [State.actionOf, State.inWindow, windowSize, accepted, cmdOffset, h4, ho, hc]

end Sys2Proof.Machine
end

