-- ==== Sys2Proof/Laws/Window.lean ====
section
/-!
SUPPORT. The address map and the limbs and byte lanes of the register window.
-/

namespace Sys2Proof.Machine

open Sys2Proof

/-! ### The address map (R71) -/

/-- The offset of a location; a left inverse of the map on the offsets that are not reserved. -/
def offsetOf : Location → Nat
  | .id => 0x000
  | .ctrl => 0x004
  | .status => 0x008
  | .cmd => 0x00C
  | .cfgw => 0x010
  | .nbits => 0x014
  | .hlen => 0x018
  | .siglen => 0x01C
  | .gcpar => 0x020
  | .drawlim => 0x024
  | .p i => 0x040 + 4 * i.val
  | .a i => 0x060 + 4 * i.val
  | .b i => 0x080 + 4 * i.val
  | .n i => 0x0A0 + 4 * i.val
  | .gcx i => 0x0C0 + 4 * i.val
  | .d i => 0x0E0 + 4 * i.val
  | .s k i => 0x100 + 0x20 * k.val + 4 * i.val
  | .ptX j i => 0x200 + 0x80 * j.val + 4 * i.val
  | .ptY j i => 0x220 + 0x80 * j.val + 4 * i.val
  | .ptFlags j => 0x240 + 0x80 * j.val
  | .gX i => 0x400 + 4 * i.val
  | .gY i => 0x420 + 4 * i.val
  | .gFlags => 0x440
  | .sigr i => 0x480 + 4 * i.val
  | .sigs i => 0x4A0 + 4 * i.val
  | .h k => 0x500 + 4 * k.val
  | .sig k => 0x600 + 4 * k.val
  | .reserved => 0x7FC

theorem offsetOf_locate_word : ∀ k : Fin 512, locate (4 * k.val) = .reserved ∨ offsetOf (locate (4 * k.val)) = 4 * k.val := by
  decide +kernel

/-- A word offset of the window is reserved, or its location says which offset it is. -/
theorem offsetOf_locate {off : Nat} (h : off < 0x800) (h4 : off % 4 = 0) :
    locate off = .reserved ∨ offsetOf (locate off) = off := by
  have h1 := offsetOf_locate_word ⟨off / 4, by omega⟩
  have h2 : 4 * (off / 4) = off := by omega
  simpa [h2] using h1

/-- Two word offsets with one location are equal, unless it is the reserved one. -/
theorem locate_injective {off off' : Nat} (h : off < 0x800) (h' : off' < 0x800) (h4 : off % 4 = 0)
    (h4' : off' % 4 = 0) (he : locate off = locate off') (hr : locate off ≠ .reserved) : off = off' := by
  have h1 := (offsetOf_locate h h4).resolve_left hr
  have h2 := (offsetOf_locate h' h4').resolve_left (he ▸ hr)
  rw [← h1, ← h2, he]

theorem locate_p : ∀ i : Fin 8, locate (0x040 + 4 * i.val) = .p i := by decide +kernel
theorem locate_a : ∀ i : Fin 8, locate (0x060 + 4 * i.val) = .a i := by decide +kernel
theorem locate_b : ∀ i : Fin 8, locate (0x080 + 4 * i.val) = .b i := by decide +kernel
theorem locate_n : ∀ i : Fin 8, locate (0x0A0 + 4 * i.val) = .n i := by decide +kernel
theorem locate_gcx : ∀ i : Fin 8, locate (0x0C0 + 4 * i.val) = .gcx i := by decide +kernel
theorem locate_d : ∀ i : Fin 8, locate (0x0E0 + 4 * i.val) = .d i := by decide +kernel
theorem locate_s : ∀ k i : Fin 8, locate (0x100 + 0x20 * k.val + 4 * i.val) = .s k i := by decide +kernel
theorem locate_ptX : ∀ (j : Fin 4) (i : Fin 8), locate (0x200 + 0x80 * j.val + 4 * i.val) = .ptX j i := by
  decide +kernel
theorem locate_ptY : ∀ (j : Fin 4) (i : Fin 8), locate (0x220 + 0x80 * j.val + 4 * i.val) = .ptY j i := by
  decide +kernel
theorem locate_ptFlags : ∀ j : Fin 4, locate (0x240 + 0x80 * j.val) = .ptFlags j := by decide +kernel
theorem locate_gX : ∀ i : Fin 8, locate (0x400 + 4 * i.val) = .gX i := by decide +kernel
theorem locate_gY : ∀ i : Fin 8, locate (0x420 + 4 * i.val) = .gY i := by decide +kernel
theorem locate_sigr : ∀ i : Fin 8, locate (0x480 + 4 * i.val) = .sigr i := by decide +kernel
theorem locate_sigs : ∀ i : Fin 8, locate (0x4A0 + 4 * i.val) = .sigs i := by decide +kernel
theorem locate_h : ∀ k : Fin 16, locate (0x500 + 4 * k.val) = .h k := by decide +kernel
theorem locate_sig : ∀ k : Fin 32, locate (0x600 + 4 * k.val) = .sig k := by decide +kernel

/-! ### Limbs (R74) -/

/-- Bit `k` of a register after a write of limb `i`. -/
theorem getLsbD_writeLimb {nlimb : Nat} {x : Word} {i : Fin 8} {v : BusWord} (hi : i.val < nlimb) (k : Nat) :
    (writeLimb nlimb x i v).getLsbD k =
      if 32 * i.val ≤ k ∧ k < 32 * i.val + 32 then v.getLsbD (k - 32 * i.val) else x.getLsbD k := by
  have ones : ∀ m : Nat, ((0xFFFFFFFF : Word)).getLsbD m = decide (m < 32) := by
    intro m
    have : (0xFFFFFFFF : Word) = (BitVec.allOnes 32).setWidth 256 := by decide
    rw [this, BitVec.getLsbD_setWidth, BitVec.getLsbD_allOnes]
    by_cases h : m < 32 <;> simp [h]
    omega
  have hi8 := i.isLt
  simp only [writeLimb, hi, if_true, BitVec.getLsbD_or, BitVec.getLsbD_and, BitVec.getLsbD_not,
    BitVec.getLsbD_shiftLeft, ones, BitVec.getLsbD_setWidth]
  by_cases h1 : 32 * i.val ≤ k
  · by_cases h2 : k < 32 * i.val + 32
    · have h3 : k < 256 := by omega
      have h4 : k - 32 * i.val < 32 := by omega
      have h5 : ¬ k < 32 * i.val := by omega
      have h6 : k - 32 * i.val < 256 := by omega
      simp [h1, h2, h3, h4, h5, h6]
    · have h4 : ¬ k - 32 * i.val < 32 := by omega
      have h6 : v.getLsbD (k - 32 * i.val) = false := BitVec.getLsbD_of_ge _ _ (by omega)
      by_cases h3 : k < 256
      · simp [h2, h3, h4, h6]
      · have : x.getLsbD k = false := BitVec.getLsbD_of_ge _ _ (by omega)
        simp [h2, h3, this]
  · have h5 : k < 32 * i.val := by omega
    have h3 : k < 256 := by omega
    simp [h1, h3, h5]

/-- A limb just written reads as written. -/
theorem readLimb_writeLimb {nlimb : Nat} {x : Word} {i : Fin 8} {v : BusWord} (hi : i.val < nlimb) :
    readLimb nlimb (writeLimb nlimb x i v) i = v := by
  simp only [readLimb, hi, if_true]
  apply BitVec.eq_of_getLsbD_eq
  intro k hk
  rw [BitVec.getLsbD_extractLsb', getLsbD_writeLimb hi]
  simp [hk]

/-- A write of one limb leaves the others. -/
theorem readLimb_writeLimb_ne {nlimb : Nat} {x : Word} {i j : Fin 8} {v : BusWord} (hij : i ≠ j) :
    readLimb nlimb (writeLimb nlimb x i v) j = readLimb nlimb x j := by
  by_cases hi : i.val < nlimb
  · unfold readLimb
    split
    · apply BitVec.eq_of_getLsbD_eq
      intro k hk
      have hne : i.val ≠ j.val := fun h => hij (Fin.ext h)
      rw [BitVec.getLsbD_extractLsb', BitVec.getLsbD_extractLsb', getLsbD_writeLimb hi, if_neg (by omega)]
    · rfl
  · simp [writeLimb, hi]

/-- A register that fits its limbs still fits them after a limb write. -/
theorem writeLimb_lt {nlimb : Nat} {x : Word} {i : Fin 8} {v : BusWord} (hx : x.toNat < 2 ^ (32 * nlimb)) :
    (writeLimb nlimb x i v).toNat < 2 ^ (32 * nlimb) := by
  by_cases hi : i.val < nlimb
  · apply Nat.lt_pow_two_of_testBit
    intro k hk
    rw [BitVec.testBit_toNat, getLsbD_writeLimb hi, if_neg (by omega)]
    rw [← BitVec.testBit_toNat]
    exact Nat.testBit_lt_two_pow (lt_of_lt_of_le hx (Nat.pow_le_pow_right (by omega) hk))
  · simpa [writeLimb, hi] using hx

/-! ### Byte lanes (R73) -/

/-- The four lanes of a word, put together again, are the word. -/
theorem joinLanes_lane (v : BusWord) : joinLanes (lane v 0) (lane v 1) (lane v 2) (lane v 3) = v := by
  unfold joinLanes lane
  apply BitVec.eq_of_getLsbD_eq
  intro k hk
  simp only [BitVec.getLsbD_append, BitVec.getLsbD_extractLsb']
  by_cases h1 : k < 8
  · simp [h1]
  · by_cases h2 : k - 8 < 8
    · have : 8 + (k - 8) = k := by omega
      simp [h1, h2, this]
    · by_cases h3 : k - 8 - 8 < 8
      · have : 16 + (k - 8 - 8) = k := by omega
        simp [h1, h2, h3, this]
      · have h4 : k - 8 - 8 - 8 < 8 := by omega
        have : 24 + (k - 8 - 8 - 8) = k := by omega
        simp [h1, h2, h3, h4, this]

/-- Byte `m` of a buffer after a write of word `k`. -/
theorem getElem?_writeLanes {len : Nat} (buf : Vector Byte len) (k : Nat) (v : BusWord) (m : Nat) :
    (writeLanes buf k v)[m]? =
      if m / 4 = k then (if m < len then some (lane v (m % 4)) else none) else buf[m]? := by
  simp only [writeLanes, Vector.getElem?_setIfInBounds]
  by_cases h : m / 4 = k
  · have hm : m % 4 = 0 ∨ m % 4 = 1 ∨ m % 4 = 2 ∨ m % 4 = 3 := by omega
    rw [if_pos h]
    rcases hm with h0 | h0 | h0 | h0
    · have e : m = 4 * k := by omega
      subst e
      simp
    · have e : m = 4 * k + 1 := by omega
      subst e
      simp [h0]
    · have e : m = 4 * k + 2 := by omega
      subst e
      simp [h0]
    · have e : m = 4 * k + 3 := by omega
      subst e
      simp [h0]
  · rw [if_neg h, if_neg (by omega), if_neg (by omega), if_neg (by omega), if_neg (by omega)]

/-- A buffer word just written reads as written. -/
theorem readLanes_writeLanes {len : Nat} (buf : Vector Byte len) (k : Nat) (v : BusWord) (h : 4 * k + 3 < len) :
    readLanes (writeLanes buf k v) k = v := by
  simp only [readLanes, getElem?_writeLanes]
  have d0 : 4 * k / 4 = k := by omega
  have d1 : (4 * k + 1) / 4 = k := by omega
  have d2 : (4 * k + 2) / 4 = k := by omega
  have d3 : (4 * k + 3) / 4 = k := by omega
  have m0 : 4 * k % 4 = 0 := by omega
  have m1 : (4 * k + 1) % 4 = 1 := by omega
  have m2 : (4 * k + 2) % 4 = 2 := by omega
  have m3 : (4 * k + 3) % 4 = 3 := by omega
  have l0 : 4 * k < len := by omega
  have l1 : 4 * k + 1 < len := by omega
  have l2 : 4 * k + 2 < len := by omega
  simp only [d0, d1, d2, d3, m0, m1, m2, m3, l0, l1, l2, h, if_true, Option.getD_some]
  exact joinLanes_lane v

/-- A write of one buffer word leaves the others. -/
theorem readLanes_writeLanes_ne {len : Nat} (buf : Vector Byte len) {k m : Nat} (v : BusWord) (h : k ≠ m) :
    readLanes (writeLanes buf k v) m = readLanes buf m := by
  have d0 : 4 * m / 4 ≠ k := by omega
  have d1 : (4 * m + 1) / 4 ≠ k := by omega
  have d2 : (4 * m + 2) / 4 ≠ k := by omega
  have d3 : (4 * m + 3) / 4 ≠ k := by omega
  simp only [readLanes, getElem?_writeLanes, if_neg d0, if_neg d1, if_neg d2, if_neg d3]

/-! ### What a host write can change -/

/-- A host write leaves the build, the port, the host's events and its observations,
`G`, `NBITS` and `LOCKED`. -/
theorem State.memWrite_environment (s : State) (off : Nat) (v : BusWord) :
    (s.memWrite off v).build = s.build ∧ (s.memWrite off v).port = s.port ∧ (s.memWrite off v).host = s.host ∧
    (s.memWrite off v).responses = s.responses ∧ (s.memWrite off v).g = s.g ∧
    (s.memWrite off v).nbits = s.nbits ∧ (s.memWrite off v).status.locked = s.status.locked := by
  have hu : ∀ s' : State, s.ifUnlocked s' = s ∨ s.ifUnlocked s' = s' := by
    intro s'; unfold State.ifUnlocked; split <;> simp
  have hd : (s.acknowledgeDone v).status.locked = s.status.locked := by
    unfold State.acknowledgeDone Status.hostWrite; split <;> rfl
  unfold State.memWrite
  cases locate off <;> dsimp only [State.writeLocation]
  case status => exact ⟨rfl, rfl, rfl, rfl, rfl, rfl, hd⟩
  case hlen | gcpar | p | a | b | n | gcx =>
    rcases hu _ with h | h <;> rw [h] <;> exact ⟨rfl, rfl, rfl, rfl, rfl, rfl, rfl⟩
  all_goals exact ⟨rfl, rfl, rfl, rfl, rfl, rfl, rfl⟩

end Sys2Proof.Machine
end

