-- ==== Sys2Proof/Tests/Slice0.lean ====
section
/-!
SUPPORT. Tests of the model on the vectors of spec/95_test_vectors.md and the words of
spec/30_encoding.md, and for every obligation with hypotheses a witness that meets them.
-/

namespace Sys2Proof.Tests

open Sys2Proof Sys2Proof.Machine Sys2Proof.Claims

-- One theorem at a time: elaborating all of these side by side takes more threads than a check has memory for.
set_option Elab.async false

/-! ### States the tests start from -/

/-- The 32-bit build of spec/95 with the given draw limit. -/
def build32 (limit : Nat) : Build := { w := 32, base := 0x1000, drawLimit := BitVec.ofNat 32 limit }

/-- Curve T8 (spec/95, section 0) written and not yet locked. -/
def t8 : State :=
  { State.resetOf (build32 64) with p := 241, a := 238, b := 1, n := 227, gcpar := 3, gcx := 2, hlen := 2 }

/-- T8 after `init`. -/
def t8Locked : State :=
  { t8 with
    g := { x := 2, y := 185, inf := false }
    nbits := 8
    status := { done := false, valid := false, locked := true, err := 0, errInfo := 0 } }

/-- Curve T8c (spec/95, section 0), where the generator's `y` is 0. -/
def t8c : State := { t8 with b := 223, gcx := 3 }

/-- A state whose port has these answers lined up. -/
def withDraws (s : State) (draws : List Nat) : State :=
  { s with port := { queue := draws.map (BitVec.ofNat 256), taken := 0 } }

/-- A state with the given draw limit. -/
def withLimit (s : State) (limit : Nat) : State := { s with build := build32 limit }

/-- A state with the digest bytes `b0 b1`. -/
def withDigest (s : State) (b0 b1 : Byte) : State := { s with h := (s.h.set 0 b0).set 1 b1 }

/-- T8 with the key 57 and the digest `12 34`, as the signing vectors have it. -/
def signer : State := withDigest { t8Locked with d := 57 } 0x12 0x34

/-- The signer with the given string in `SIG` and the public key `57·G` in `PT[0]`. -/
def verifier (string : List Byte) : State := (signer.setSigString string).setPt 0 (.finite 122 130)

/-- The string `1b27` of V-SG1. -/
def string1b27 : List Byte := [0x31, 0x62, 0x32, 0x37]

/-- A curve with 13 points over the field of 7 (`y² = x³ + 3`, `G = (1, 2)`), key 3, digest byte 5: small
enough to check the group law on every pair of scalars. -/
def tiny : State :=
  { State.resetOf (build32 64) with
    p := 7, a := 0, b := 3, n := 13, gcpar := 0, gcx := 1, hlen := 1, d := 3, nbits := 4
    g := { x := 1, y := 2, inf := false }
    h := (Vector.replicate 64 (0 : Byte)).set 0 5
    status := { done := false, valid := false, locked := true, err := 0, errInfo := 0 }
    port := { queue := [2, 5, 6], taken := 0 } }

/-- The outcome is a next state with the property. -/
def nextHas (r : Result) (p : State → Bool) : Bool :=
  match r with
  | .next t => p t
  | .fault _ => false
  | .refused _ => false

/-- The step that runs the command word ends in a state with the property. -/
def runs (s : State) (w : Nat) (p : State → Bool) : Bool := nextHas (step (s.withFetchWord 32 w)) p

/-- The step that runs the command word leaves this `STATUS` word. -/
def givesStatus (s : State) (w : Nat) (status : BusWord) : Bool := runs s w fun t => t.status.word == status

theorem exists_of_nextHas {r : Result} {p : State → Bool} (h : nextHas r p = true) :
    ∃ t, r = .next t ∧ p t = true := by
  cases r with
  | next t => exact ⟨t, rfl, h⟩
  | fault f => simp [nextHas] at h
  | refused f => simp [nextHas] at h

theorem prime_241 : Nat.Prime 241 := by norm_num
theorem prime_227 : Nat.Prime 227 := by norm_num

/-! ### Well-formedness: an ill-formed term for each check (R105) -/

theorem test_wellFormed_padd_ra : (Instr.padd 0 5 0).wellFormed = false := by decide
theorem test_wellFormed_padd_rb : (Instr.padd 0 0 15).wellFormed = false := by decide
theorem test_wellFormed_pdbl_ra : (Instr.pdbl 0 5).wellFormed = false := by decide
theorem test_wellFormed_psmul_ra : (Instr.psmul 0 8 0).wellFormed = false := by decide
theorem test_wellFormed_verify_ra : (Instr.verify 5).wellFormed = false := by decide
theorem test_wellFormed_generator : (Instr.padd 3 4 4).wellFormed = true := by decide

/-! ### Decoding: a word for each constructor, from R111 (or R101 to R103 field by field) -/

theorem test_decode_init : decode 0x00000001 = .ok .init := by decide
theorem test_decode_zeroize : decode 0x00000002 = .ok .zeroize := by decide
theorem test_decode_modadd : decode 0x00143310 = .ok (.modadd 3 3 4 .n) := by decide
/-- `modsub.p s7, s6, s5`: `rd` 7, `ra` 6, `rb` 5. -/
theorem test_decode_modsub : decode 0x00056711 = .ok (.modsub 7 6 5 .p) := by decide
theorem test_decode_modmul : decode 0x00010212 = .ok (.modmul 2 0 1 .p) := by decide
/-- `mmul.n s1, s2, s3`. -/
theorem test_decode_mmul : decode 0x00132113 = .ok (.mmul 1 2 3 .n) := by decide
/-- `modred.p s4, s5`. -/
theorem test_decode_modred : decode 0x00005414 = .ok (.modred 4 5 .p) := by decide
/-- `modexp.n s0, s1, s7`. -/
theorem test_decode_modexp : decode 0x00171015 = .ok (.modexp 0 1 7 .n) := by decide
theorem test_decode_modinv : decode 0x00100116 = .ok (.modinv 1 0 .n) := by decide
/-- `legendre.n s6, s2`. -/
theorem test_decode_legendre : decode 0x00102617 = .ok (.legendre 6 2 .n) := by decide
theorem test_decode_modsqrt : decode 0x00000118 = .ok (.modsqrt 1 0 .p) := by decide
theorem test_decode_pdecomp : decode 0x00301020 = .ok (.pdecomp 0 1 3) := by decide
theorem test_decode_padd : decode 0x00010221 = .ok (.padd 2 0 1) := by decide
theorem test_decode_pdbl : decode 0x00000122 = .ok (.pdbl 1 0) := by decide
theorem test_decode_psmul : decode 0x00034123 = .ok (.psmul 1 4 3) := by decide
theorem test_decode_keygen : decode 0x0C000030 = .ok (.keygen 192) := by decide
/-- `pubkey pt3`. -/
theorem test_decode_pubkey : decode 0x00000331 = .ok (.pubkey 3) := by decide
theorem test_decode_sign : decode 0x00000032 = .ok .sign := by decide
theorem test_decode_verify : decode 0x00002033 = .ok (.verify 2) := by decide
theorem test_decode_sigenc : decode 0x00000034 = .ok .sigenc := by decide
theorem test_decode_sigdec : decode 0x00000035 = .ok .sigdec := by decide
/-- V-E2: each reason a word is no command. -/
theorem test_decode_errors :
    decode 0x00000003 = .error .unknownOpcode ∧ decode 0x00100001 = .error .mustBeZeroBit ∧
    decode 0x00000532 = .error .mustBeZeroBit ∧ decode 0x00005033 = .error .reservedIndex := by decide

/-! ### Commands, on the vectors of spec/95_test_vectors.md -/

/-- V-C1: six draws, the last the usable 7. -/
theorem test_init : runs (withDraws t8 [0, 250, 1, 2, 3, 7]) 0x00000001 (fun t =>
    t.g == { x := 2, y := 185, inf := false } && t.nbits == 8 && t.status.word == 0x00000005 &&
    t.port.queue == []) = true := by decide +kernel
/-- V-C2: the first failing check is reported. -/
theorem test_init_first_failure : givesStatus { t8 with p := 240, hlen := 0 } 0x00000001 0x00010B01 = true := by
  decide +kernel
/-- V-C4. -/
theorem test_zeroize : runs (verifier string1b27) 0x00000002 (fun t =>
    t.d == 0 && t.pt[0] == PointReg.identity && t.siglen == 0 && t.h[0] == 0 && t.sig[0] == 0 &&
    t.g == { x := 2, y := 185, inf := false } && t.status.word == 0x00000005) = true := by decide +kernel
/-- V-F1: the sum exceeds 32 bits before the reduction. -/
theorem test_modadd : runs ((t8Locked.setS 0 0xFFFFFFFF).setS 1 0xFFFFFFFF) 0x00110210 (fun t =>
    t.sreg[2].toNat == 123) = true := by decide +kernel
/-- V-F2: a negative difference. -/
theorem test_modsub : runs ((t8Locked.setS 0 0).setS 1 9) 0x00010211 (fun t => t.sreg[2].toNat == 232) = true := by
  decide +kernel
/-- V-F3. -/
theorem test_modmul : runs ((t8Locked.setS 0 0xFFFFFFFF).setS 1 0xFFFFFFFF) 0x00010212 (fun t =>
    t.sreg[2].toNat == 196) = true := by decide +kernel
/-- V-F9: the destination is both sources. -/
theorem test_modmul_in_place : runs (t8Locked.setS 1 240) 0x00011112 (fun t => t.sreg[1].toNat == 1) = true := by
  decide +kernel
/-- V-F4. -/
theorem test_mmul : runs ((t8Locked.setS 0 100).setS 1 104) 0x00110213 (fun t => t.sreg[2].toNat == 121) = true := by
  decide +kernel
/-- V-F5. -/
theorem test_modred : runs (t8Locked.setS 0 4660) 0x00100114 (fun t => t.sreg[1].toNat == 120) = true := by
  decide +kernel
/-- V-F6: the exponent is not reduced. -/
theorem test_modexp : runs ((t8Locked.setS 0 2).setS 1 0xFFFFFFFF) 0x00010215 (fun t =>
    t.sreg[2].toNat == 233) = true := by decide +kernel
/-- V-F6: `0^0`. -/
theorem test_modexp_zero : runs t8Locked 0x00010215 (fun t => t.sreg[2].toNat == 1) = true := by decide +kernel
/-- V-F7. -/
theorem test_modinv : runs (t8Locked.setS 0 120) 0x00100116 (fun t => t.sreg[1].toNat == 70) = true := by
  decide +kernel
/-- V-F7: a multiple of the modulus has no inverse, and the destination stays. -/
theorem test_modinv_none : runs ((t8Locked.setS 0 482).setS 1 9) 0x00000116 (fun t =>
    t.sreg[1].toNat == 9 && t.status.word == 0x00000205) = true := by decide +kernel
/-- V-F8. -/
theorem test_legendre : runs (t8Locked.setS 0 248) 0x00000117 (fun t => t.sreg[1].toNat == 240) = true := by
  decide +kernel
/-- V-SQ1. -/
theorem test_modsqrt : runs (withDraws (t8Locked.setS 0 3) [0, 250, 1, 2, 3, 7]) 0x00000118 (fun t =>
    t.sreg[1].toNat == 56) = true := by decide +kernel
/-- V-SQ7: the draw limit. -/
theorem test_modsqrt_limit :
    givesStatus (withLimit (withDraws (t8Locked.setS 0 3) [1, 2, 3]) 3) 0x00000118 0x00010305 = true := by
  decide +kernel
/-- V-PD1: the parity byte picks the other root. -/
theorem test_pdecomp : runs (withDraws (t8Locked.setS 0 2) [13]) 0x00200020 (fun t =>
    t.pt[0] == { x := 2, y := 56, inf := false }) = true := by decide +kernel
/-- V-PD6: `y = 0`. -/
theorem test_pdecomp_zero : runs { (t8Locked.setS 0 3) with b := 223 } 0x00200220 (fun t =>
    t.pt[2] == { x := 3, y := 0, inf := false }) = true := by decide +kernel
/-- V-PA3: a generic addition, `(16, 124) + (2, 185)`. -/
theorem test_padd : runs ((t8Locked.setPt 0 (.finite 16 124)).setPt 1 (.finite 2 185)) 0x00010321 (fun t =>
    t.pt[3] == { x := 226, y := 68, inf := false }) = true := by decide +kernel
/-- V-PA1: a point and its negative. -/
theorem test_padd_negative :
    runs ((t8Locked.setPt 0 (.finite 2 185)).setPt 1 (.finite 2 56)) 0x00010321 (fun t =>
      t.pt[3] == PointReg.identity) = true := by decide +kernel
/-- V-PB1, with `G` as the source. -/
theorem test_pdbl : runs t8Locked 0x00004122 (fun t => t.pt[1] == { x := 63, y := 119, inf := false }) = true := by
  decide +kernel
/-- V-PS1: the scalar 17. -/
theorem test_psmul : runs (t8Locked.setS 5 17) 0x00054123 (fun t =>
    t.pt[1] == { x := 16, y := 124, inf := false }) = true := by decide +kernel
/-- V-PS1: the scalar `N` gives the identity. -/
theorem test_psmul_order : runs (t8Locked.setS 5 227) 0x00054123 (fun t => t.pt[1] == PointReg.identity) = true := by
  decide +kernel
/-- V-KG1: `u = N` is drawn again. -/
theorem test_keygen : runs (withDraws t8Locked [0, 255, 227, 226]) 0x00800030 (fun t => t.d.toNat == 226) = true := by
  decide +kernel
/-- V-KG3: 33 bits on a 32-bit build. -/
theorem test_keygen_bits : givesStatus t8Locked 0x02100030 0x00040A05 = true := by decide +kernel
/-- V-PK1. -/
theorem test_pubkey : runs signer 0x00000031 (fun t => t.pt[0] == { x := 122, y := 130, inf := false }) = true := by
  decide +kernel
/-- V-SG1. -/
theorem test_sign : runs (withDraws signer [0, 230, 100, 101]) 0x00000032 (fun t =>
    t.sigr.toNat == 27 && t.sigs.toNat == 39 && t.sig.toList.take 4 == string1b27 && t.siglen.toNat == 4) = true := by
  decide +kernel
/-- V-SG3: rounds that fail on `s = 0` and on `C.x ≡ 0`. -/
theorem test_sign_retries : runs (withDraws signer [96, 81, 113, 5]) 0x00000032 (fun t =>
    t.sigr.toNat == 113 && t.sigs.toNat == 4) = true := by decide +kernel
/-- V-VF1. -/
theorem test_verify : givesStatus (verifier string1b27) 0x00000033 0x00000007 = true := by decide +kernel
/-- V-VF8: `C = Infinity` rejects. -/
theorem test_verify_infinity : givesStatus (verifier [0x30, 0x31, 0x33, 0x39]) 0x00000033 0x00000005 = true := by
  decide +kernel
/-- V-CD1. -/
theorem test_sigenc : runs (t8Locked.setSignature 0 255) 0x00000034 (fun t =>
    t.sig.toList.take 4 == [0x30, 0x30, 0x66, 0x66] && t.siglen.toNat == 4) = true := by decide +kernel
/-- V-CD2. -/
theorem test_sigenc_range : givesStatus (t8Locked.setSignature 1 256) 0x00000034 0x00050A05 = true := by
  decide +kernel
/-- V-CD3: both letter cases. -/
theorem test_sigdec : runs (verifier [0x45, 0x32, 0x65, 0x32]) 0x00000035 (fun t =>
    t.sigr.toNat == 226 && t.sigs.toNat == 226) = true := by decide +kernel
/-- V-CD3: a character that is no digit. -/
theorem test_sigdec_character : givesStatus (verifier [0x67, 0x31, 0x32, 0x37]) 0x00000035 0x00020405 = true := by
  decide +kernel
/-- V-E3: the first command after reset. -/
theorem test_not_initialised : givesStatus State.reset 0x00010212 0x00000901 = true := by decide +kernel
/-- V-B1 and R52: what the window reads after reset. -/
theorem test_window_after_reset :
    State.reset.memRead 0x000 = 0x4D5A4907 ∧ State.reset.memRead 0x010 = 192 ∧ State.reset.memRead 0x024 = 64 ∧
    State.reset.memRead 0x008 = 0 ∧ State.reset.memRead 0x240 = 1 ∧ State.reset.memRead 0x440 = 1 := by
  decide +kernel
/-- V-SG1: `MemRead(BASE + 0x600)` of the string `1b27`. -/
theorem test_window_signature : (verifier string1b27).memRead 0x600 = 0x37326231 := by decide +kernel

/-! ### Witnesses: for each obligation with hypotheses, values that meet them

Each theorem is named after its obligation; its conjuncts are the hypotheses of the obligation's clauses
at the values where the clauses meet or at the ends of their ranges. -/

/-- The scalar test of `KeyGroupLaw` at one pair. -/
def groupLawAt (s : State) (q : Point) (z1 z2 : Nat) : Bool :=
  match s.mulPoint z1 s.g.value, s.mulPoint z2 q with
  | .ok c1, .ok c2 =>
    match s.addPoints c1 c2, s.mulPoint ((z1 + z2 * s.d.toNat) % s.n.toNat) s.g.value with
    | .ok c, .ok c' => decide (c = c')
    | .ok _, .error _ => false
    | .error _, _ => false
  | .ok _, .error _ => false
  | .error _, _ => false

theorem groupLaw_of_check {s : State} {q : Point} {z1 z2 : Nat} (h : groupLawAt s q z1 z2 = true) :
    ∃ c1 c2, s.mulPoint z1 s.g.value = .ok c1 ∧ s.mulPoint z2 q = .ok c2 ∧
      s.addPoints c1 c2 = s.mulPoint ((z1 + z2 * s.d.toNat) % s.n.toNat) s.g.value := by
  unfold groupLawAt at h
  split at h
  · next c1 c2 h1 h2 =>
    split at h
    · next c c' h3 h4 =>
      exact ⟨c1, c2, h1, h2, by rw [h3, h4, of_decide_eq_true h]⟩
    · simp at h
    · simp at h
  · simp at h
  · simp at h

theorem witness_BitlengthBoundsItsArgument :
    0 < 1 ∧ bitlength 1 = 1 ∧ bitlength 255 = 8 ∧ bitlength 256 = 9 ∧ bitlength 227 = 8 := by decide

theorem witness_ModexpIsPowerModulo : 2 ≤ 2 ∧ 1 ≤ 1 ∧ modexp 3 240 241 = 1 := by decide +kernel

theorem witness_InverseIsUniqueInverse :
    2 ≤ 241 ∧ Nat.gcd (2 % 241) 241 = 1 ∧ (1 ≤ 121 ∧ 121 ≤ 241 - 1 ∧ (2 * 121) % 241 = 1) ∧
    Nat.gcd (6 % 9) 9 ≠ 1 ∧ 482 % 241 = 0 ∧ Nat.gcd (1 % 2) 2 = 1 := by decide

theorem witness_LegendreIsEulerPower : 3 ≤ 3 ∧ 3 % 2 = 1 ∧ Nat.Prime 3 ∧ 3 ≤ 241 ∧ 241 % 2 = 1 ∧ Nat.Prime 241 :=
  ⟨by decide, by decide, by norm_num, by decide, by decide, prime_241⟩

theorem witness_HexFieldRoundTrip :
    255 < 16 ^ 2 ∧ 0 < 16 ^ 0 ∧ 1 < 2 ∧ 10 ≤ 10 ∧ 15 ≤ 15 ∧ hexenc 0xA9 2 = [0x61, 0x39] ∧
    (0x30 ≤ (0x39 : Byte).toNat ∧ (0x39 : Byte).toNat ≤ 0x39) ∧ (0x61 : Byte).toNat ≤ 0x66 ∧
    (0x46 : Byte).toNat ≤ 0x46 ∧ hexval 0x66 ≠ none ∧ hexval 0x2F = none ∧ hexval 0x3A = none ∧
    hexval 0x40 = none ∧ hexval 0x47 = none ∧ hexval 0x60 = none ∧ hexval 0x67 = none ∧
    ∀ c ∈ string1b27, (hexval c).isSome = true := by decide

theorem witness_DecodeOfEncode :
    (Instr.padd 3 4 4).wellFormed = true ∧ (Instr.keygen 0xFFF).wellFormed = true ∧
    (Instr.mmul 7 7 7 .n).wellFormed = true ∧ (Instr.pdecomp 3 7 0xFF).wellFormed = true := by decide

theorem witness_AcceptedWordIsItsEncoding :
    decode 0x00044321 = .ok (.padd 3 4 4) ∧ decode 0x00000001 = .ok .init ∧ decode 0xFFF00030 = .ok (.keygen 0xFFF) := by
  decide

/-- The T8 core with a `modmul` as the host's next access. -/
def atCommand (w : BusWord) : State := { t8Locked with host := [.write 0x100C 4 w] }

theorem witness_StepRunsDecodedCommand :
    (atCommand 0x00010212).host = .write ((atCommand 0x00010212).build.base + 0x00C) 4 0x00010212 :: [] ∧
    (atCommand 0x00010212).build.base % 0x800 = 0 ∧ decode 0x00010212 = .ok (.modmul 2 0 1 .p) := by decide +kernel

theorem witness_IllegalWordRaisesIllegalCommand :
    (atCommand 0).host = .write ((atCommand 0).build.base + 0x00C) 4 0 :: [] ∧
    (atCommand 0).build.base % 0x800 = 0 ∧ decode 0 = .error .unknownOpcode ∧
    decode 0x00200212 = .error .mustBeZeroBit ∧ decode 0x00000421 = .error .reservedIndex ∧
    ([0x00, 0x03, 0x0F, 0x19, 0x1F, 0x24, 0x2F, 0x36, 0xFF].all fun op =>
      decode op == .error .unknownOpcode) = true ∧
    ([0x01, 0x02, 0x10, 0x18, 0x20, 0x23, 0x30, 0x35].all fun op => decode op != .error .unknownOpcode) = true := by
  decide +kernel

theorem witness_RefusedAccessOnlyAnswersBusError :
    t8.build.base ≤ 0x1000 ∧ 0x17FF < t8.build.base + 0x800 ∧ (2 ≠ 4 ∨ 0x1000 % 4 ≠ 0) ∧ (4 ≠ 4 ∨ 0x17FF % 4 ≠ 0) ∧
    ({ t8 with host := [.read 0x1000 2] } : State).host = .read 0x1000 2 :: [] ∧
    ({ t8 with host := [.write 0x17FF 4 1] } : State).host = .write 0x17FF 4 1 :: [] := by decide

theorem witness_HostAccessIsServed :
    t8.build.base % 0x800 = 0 ∧ 0x7FC < 0x800 ∧ 0x7FC % 4 = 0 ∧ 0 % 4 = 0 ∧ 0x008 ≠ 0x00C ∧
    ({ t8 with host := [.read 0x17FC 4] } : State).host = .read (t8.build.base + 0x7FC) 4 :: [] ∧
    ({ t8 with host := [.write 0x1008 4 1] } : State).host = .write (t8.build.base + 0x008) 4 1 :: [] := by decide

theorem witness_ResetGivesR52Values : ({ t8Locked with host := [.reset] } : State).host = .reset :: [] := rfl

theorem witness_WindowReadAfterWrite :
    0 < 8 ∧ 7 < 8 ∧ 0 < t8.build.w / 32 ∧ ¬ 1 < t8.build.w / 32 ∧ t8.status.locked = false ∧
    5 < State.reset.build.w / 32 ∧ ¬ 6 < State.reset.build.w / 32 := by decide

theorem witness_WindowWriteLeavesOtherWords :
    0x7FC < 0x800 ∧ 0x000 < 0x800 ∧ 0x7FC % 4 = 0 ∧ 0x000 % 4 = 0 ∧ 0x7FC ≠ 0x000 ∧
    0x0DC < 0x0E0 ∧ 0x100 ≤ 0x100 ∧ 0x0E4 ≠ 0x0E0 + 4 * 0 ∧ 0 < 8 ∧ 7 < 8 := by decide

theorem witness_FixedAndReservedWords :
    (∀ off ∈ [0x000, 0x00C, 0x010, 0x014, 0x024, 0x028, 0x03C, 0x244, 0x27C, 0x3C4, 0x3FC, 0x400, 0x440, 0x444, 0x47C,
      0x4C0, 0x4FC, 0x540, 0x5FC, 0x680, 0x7FC], off % 4 = 0) ∧
    (0x028 ≤ 0x03C ∧ 0x03C ≤ 0x03F) ∧ (∃ j < 4, 0x244 + 0x80 * j ≤ 0x3FC ∧ 0x3FC ≤ 0x27F + 0x80 * j) ∧
    t8Locked.status.locked = true ∧ (0x040 ≤ 0x0DC ∧ 0x0DC ≤ 0x0DF) := by decide

theorem witness_CompletedCommandWritesStatus :
    (∃ t, exec .init (withDraws t8 [7]) = .next t ∧
      (t.status.locked != t8.status.locked) = true) ∧
    ∃ t, exec (.verify 0) (verifier string1b27) = .next t ∧ t.status.valid = true :=
  ⟨exists_of_nextHas (by decide +kernel), exists_of_nextHas (by decide +kernel)⟩

theorem witness_ErrorChangesOnlyStatus :
    ∃ t, exec .init State.reset = .next t ∧ (t.status.err != 0) = true :=
  exists_of_nextHas (by decide +kernel)

theorem witness_CommandWriteSets :
    (∃ t, exec .init (withDraws t8 [7]) = .next t ∧ (t.g != t8.g && t.port != (withDraws t8 [7]).port) = true) ∧
    (∃ t, exec .zeroize (verifier string1b27) = .next t ∧ (t.d != 57 && t.h != signer.h) = true) ∧
    (∃ t, exec .sigenc (t8Locked.setSignature 1 226) = .next t ∧ (t.sig != t8Locked.sig) = true) ∧
    (∃ t, exec .sigdec (verifier string1b27) = .next t ∧ (t.sigr != (verifier string1b27).sigr) = true) ∧
    (∃ t, exec (.modadd 0 1 1 .p) (t8Locked.setS 1 3) = .next t ∧ (t.sreg[0] != 0) = true) ∧
    ∃ t, exec (.pdbl 3 4) t8Locked = .next t ∧ (t.pt[3] != PointReg.identity) = true :=
  ⟨exists_of_nextHas (by decide +kernel), exists_of_nextHas (by decide +kernel), exists_of_nextHas (by decide +kernel),
   exists_of_nextHas (by decide +kernel), exists_of_nextHas (by decide +kernel), exists_of_nextHas (by decide +kernel)⟩

theorem witness_LockStageErrors :
    Instr.sign.wellFormed = true ∧ t8.status.locked = false ∧ Instr.sign ≠ .init ∧ Instr.sign ≠ .zeroize ∧
    Instr.init.wellFormed = true ∧ t8Locked.status.locked = true := by decide

/-- With `N = 1` no draw is in `[1, N − 1]`, so every round of `KEYGEN` fails, whatever the port answers. -/
def keygenHang : State := withDraws { t8Locked with n := 1 } [0, 1, 255]

/-- With `G = Infinity` every round of `SIGN` fails, whatever the port answers. -/
def signHang : State := withDraws { t8Locked with n := 2, d := 1, g := PointReg.identity } [0, 1, 2]

theorem keygenHang_rejects (u : Nat) : u = 0 ∨ keygenHang.n.toNat ≤ u := by
  have h : keygenHang.n.toNat = 1 := by decide
  omega

theorem signHang_rejects (u : Nat) : SignRoundFails signHang u := by
  have h : signHang.n.toNat = 2 := by decide
  by_cases h0 : u = 0
  · exact .inl h0
  by_cases h1 : u = 1
  · exact .inr (.inr (.inl (by subst h1; decide +kernel)))
  · exact .inr (.inl (by omega))

/-- The two hanging states meet the premises of the clauses about a hang, and of the one about no next state. -/
theorem witness_UnfinishedCommandIsRetryLoop :
    (keygenHang.status.locked = true ∧ 1 ≤ (1 : BitVec 12).toNat ∧ (32 : BitVec 12).toNat ≤ keygenHang.build.w ∧
      ∀ z : Word, z ∈ keygenHang.port.queue ∨ (∃ m, z = Config.freeDraw m) →
        z.toNat % 2 ^ 8 = 0 ∨ keygenHang.n.toNat ≤ z.toNat % 2 ^ 8) ∧
    (signHang.status.locked = true ∧ 1 ≤ signHang.d.toNat ∧ signHang.d.toNat < signHang.n.toNat ∧
      InRange signHang signHang.g ∧
      ∀ z : Word, z ∈ signHang.port.queue ∨ (∃ m, z = Config.freeDraw m) →
        SignRoundFails signHang (z.toNat % 2 ^ signHang.nbits.toNat)) ∧
    ∀ t, exec (.keygen 8) keygenHang ≠ .next t := by
  refine ⟨⟨rfl, by decide, by decide, fun z _ => keygenHang_rejects _⟩,
    ⟨rfl, by decide, by decide, .inl rfl, fun z _ => signHang_rejects _⟩, fun t h => ?_⟩
  have round : ∀ u, keygenRound keygenHang.n.toNat u = .ok none := by
    intro u
    have hn : keygenHang.n.toNat = 1 := by decide
    rw [hn, keygenRound, if_neg (by omega)]
  have loop : keygenHang.port.retry (8 : BitVec 12).toNat (keygenRound keygenHang.n.toNat) = .endless :=
    retryLoop_endless _ _ (fun _ => round _) _ _ (fun _ _ => round _)
  have he : exec (.keygen 8) keygenHang = .fault .endlessRetry := by
    show execKeygen 8 keygenHang = _
    rw [execKeygen, State.whenLocked_locked _ rfl, if_neg (by decide), loop]
  rw [he] at h
  cases h

theorem witness_EveryCommandHasNextStateOrHangs :
    Instr.verify 0 ≠ .sign ∧ (∀ bits, Instr.verify 0 ≠ .keygen bits) ∧
    (∃ z ∈ (withDraws t8Locked [0, 226]).port.queue, 1 ≤ z.toNat % 2 ^ (8 : BitVec 12).toNat ∧
      z.toNat % 2 ^ (8 : BitVec 12).toNat ≤ t8Locked.n.toNat - 1) ∧
    ∃ z ∈ (withDraws signer [0, 101]).port.queue, ¬ SignRoundFails signer (z.toNat % 2 ^ signer.nbits.toNat) := by
  refine ⟨by decide, fun _ h => (by cases h), ⟨226, by decide, by decide, by decide⟩, 101, by decide, ?_⟩
  have hm : signer.mulPoint 101 signer.g.value = .ok (.finite 27 166) := by decide +kernel
  have hk : (101 : Word).toNat % 2 ^ signer.nbits.toNat = 101 := by decide
  have hg : (27 % signer.n.toNat * signer.d.toNat + 101 * signer.digestToE) % signer.n.toNat ≠ 0 := by
    decide +kernel
  have hn : signer.n.toNat = 227 := by decide
  rw [hk]
  rintro (h | h | h | ⟨x, y, h, h'⟩)
  · omega
  · omega
  · rw [hm] at h
    cases h
  · rw [hm] at h
    cases h
    rcases h' with h' | h'
    · rw [hn] at h'
      omega
    · exact hg h'

/-- Draws that all pass the Euler test are not usable (R163). -/
theorem noneUsable_of_residues {q limit : Nat} {port : Port} (hl : limit ≤ port.queue.length)
    (hr : ∀ j < limit, (lined port (bitlength q) j).all (fun u => u ^ ((q - 1) / 2) % q == 1) = true) :
    NoneUsable q limit port := by
  refine ⟨hl, fun j u hj hu hd => ?_⟩
  have h := hr j hj
  rw [hu] at h
  exact hd.2.2 (by simpa using h)

/-- V-C2's table: the first failing check is each of 1 to 7, earlier ones holding. -/
theorem witness_InitReportsFirstFailedCheck :
    t8.status.locked = false ∧
    [(State.domainFailure { t8 with p := 240, hlen := 0 }), (State.domainFailure { t8 with a := 241 }),
     (State.domainFailure { t8 with b := 2 }), (State.domainFailure { t8 with n := 226 }),
     (State.domainFailure { t8 with n := 257 }), (State.domainFailure { t8 with gcx := 241 }),
     (State.domainFailure { t8 with hlen := 65 }), t8.domainFailure] =
    [some 1, some 2, some 3, some 4, some 5, some 6, some 7, none] ∧
    State.domainFailure { t8 with gcx := 3 } = none ∧ curveRhs 241 238 1 3 ≠ 0 ∧
    curveRhs 241 238 1 3 ^ ((241 - 1) / 2) % 241 ≠ 1 ∧
    curveRhs 241 238 1 2 ≠ 0 ∧ curveRhs 241 238 1 2 ^ ((241 - 1) / 2) % 241 = 1 ∧
    (withLimit t8 2).build.drawLimit.toNat = 2 ∧ NoneUsable 241 2 (withDraws t8 [1, 2]).port :=
  ⟨rfl, by decide +kernel, by decide +kernel, by decide +kernel, by decide +kernel, by decide +kernel,
   by decide +kernel, by decide, noneUsable_of_residues (by decide) (by decide +kernel)⟩

/-- The draws `[0, 250, 1, 2, 3, 7]` of V-C1 bring a usable one within the limit. -/
theorem usable_7 : UsableDraw 241 7 := by
  have h : (7 : Nat) ^ ((241 - 1) / 2) % 241 ≠ 1 := by decide +kernel
  exact ⟨by decide, by decide, h⟩

theorem samplerSucceeds : SamplerSucceeds 241 64 (withDraws t8 [0, 250, 1, 2, 3, 7]).port :=
  ⟨5, 7, by decide, by decide +kernel, usable_7⟩

/-- Draw 5, the 7, is the first the solver can use. -/
theorem firstUsable_5 : FirstUsable 241 64 (withDraws t8 [0, 250, 1, 2, 3, 7]).port 5 := by
  have hr : ∀ j < 5, (lined (withDraws t8 [0, 250, 1, 2, 3, 7]).port (bitlength 241) j).all
      (fun u => u == 0 || 241 ≤ u || u ^ ((241 - 1) / 2) % 241 == 1) = true := by decide +kernel
  refine ⟨by decide, ⟨7, by decide +kernel, usable_7⟩, fun i u hi hu hd => ?_⟩
  have h := hr i hi
  rw [hu] at h
  have h1 := hd.1
  have h2 := hd.2.1
  have h3 := hd.2.2
  simp only [Option.all_some, Bool.or_eq_true, beq_iff_eq, decide_eq_true_eq] at h
  omega

theorem witness_InitDerivesGeneratorAndLocks :
    (∀ s ∈ [t8, t8c], s.status.locked = false ∧ 5 ≤ s.p.toNat ∧ s.a.toNat < s.p.toNat ∧ s.b.toNat < s.p.toNat ∧
      (4 * s.a.toNat ^ 3 + 27 * s.b.toNat ^ 2) % s.p.toNat ≠ 0 ∧ s.n.toNat % 2 = 1 ∧ 3 ≤ s.n.toNat ∧
      bitlength s.n.toNat % 4 = 0 ∧ s.gcx.toNat < s.p.toNat ∧ 1 ≤ s.hlen.toNat ∧ s.hlen.toNat ≤ 64) ∧
    Nat.Prime t8.p.toNat ∧ 56 * 56 % 241 = curveRhs 241 238 1 2 ∧
    SamplerSucceeds 241 64 (withDraws t8 [0, 250, 1, 2, 3, 7]).port ∧ curveRhs 241 238 223 3 = 0 ∧
    curveRhs 241 238 1 2 ≠ 0 ∧ FirstUsable 241 64 (withDraws t8 [0, 250, 1, 2, 3, 7]).port 5 :=
  ⟨by decide +kernel, prime_241, by decide +kernel, samplerSucceeds, by decide +kernel, by decide +kernel,
   firstUsable_5⟩

theorem witness_FieldArithmeticResults :
    t8Locked.status.locked = true ∧ 0 < t8Locked.p.toNat ∧ 0 < t8Locked.n.toNat := by decide

theorem witness_FieldPowerResults :
    t8Locked.status.locked = true ∧ 2 ≤ t8Locked.p.toNat ∧ 2 ≤ t8Locked.n.toNat := by decide

theorem witness_ModinvResults :
    t8Locked.status.locked = true ∧ 2 ≤ t8Locked.p.toNat ∧ Nat.gcd (1 % 241) 241 = 1 ∧
    Nat.gcd (241 % 241) 241 ≠ 1 ∧ Nat.gcd (0 % 227) 227 ≠ 1 := by decide

theorem witness_MontgomeryProductResult :
    t8Locked.status.locked = true ∧ 3 ≤ t8Locked.p.toNat ∧ t8Locked.p.toNat % 2 = 1 ∧ 3 ≤ t8Locked.n.toNat ∧
    t8Locked.n.toNat % 2 = 1 := by decide

theorem witness_ModsqrtReturnsRoot :
    t8Locked.status.locked = true ∧ Nat.Prime t8Locked.p.toNat ∧ 5 ≤ t8Locked.p.toNat ∧ 56 * 56 % 241 = 3 % 241 ∧
    SamplerSucceeds 241 64 (withDraws t8 [0, 250, 1, 2, 3, 7]).port ∧ 0 * 0 % 241 = 241 % 241 ∧ 3 % 241 ≠ 0 ∧
    FirstUsable 241 64 (withDraws t8 [0, 250, 1, 2, 3, 7]).port 5 :=
  ⟨by decide, prime_241, by decide, by decide, samplerSucceeds, by decide, by decide, firstUsable_5⟩

/-- V-SQ5, and V-SQ7: three residues against a limit of 3. -/
theorem witness_ModsqrtErrors :
    t8Locked.status.locked = true ∧ 5 ≤ t8Locked.p.toNat ∧ 7 % 241 ≠ 0 ∧ (7 % 241) ^ ((241 - 1) / 2) % 241 ≠ 1 ∧
    3 % 241 ≠ 0 ∧ (3 % 241) ^ ((241 - 1) / 2) % 241 = 1 ∧ NoneUsable 241 3 (withDraws t8Locked [1, 2, 3]).port :=
  ⟨by decide, by decide, by decide, by decide +kernel, by decide, by decide +kernel,
   noneUsable_of_residues (by decide) (by decide +kernel)⟩

theorem witness_PointLawRouting :
    2 ≤ 241 ∧ 185 ≠ 56 ∧ 16 ≠ 2 ∧ (inverse (((2 : Int) - 16) % 241).toNat 241).isSome = true ∧
    (inverse (2 * 185 % 241) 241).isSome = true ∧
    (4 ≠ 1 ∧ inverse (((1 : Int) - 4) % 9).toNat 9 = none) ∧ (3 ≠ 0 ∧ inverse (2 * 3 % 9) 9 = none) := by
  decide +kernel

theorem witness_PointLawClosure :
    Nat.Prime 241 ∧ 5 ≤ 241 ∧ PointInRange 241 (.finite 2 185) ∧ PointInRange 241 .infinity ∧
    OnCurve 241 238 1 (.finite 2 185) ∧ OnCurve 241 238 1 (.finite 63 119) ∧ OnCurve 241 238 1 .infinity :=
  ⟨prime_241, by decide, ⟨by decide, by decide⟩, trivial, by unfold OnCurve; decide, by unfold OnCurve; decide, trivial⟩

theorem witness_PointAdditionCommutes :
    Nat.Prime 241 ∧ 5 ≤ 241 ∧ PointInRange 241 (.finite 16 124) ∧ PointInRange 241 (.finite 240 0) :=
  ⟨prime_241, by decide, ⟨by decide, by decide⟩, by decide, by decide⟩

/-- Coordinates at the end of their range: `P − 1`. -/
def atEdge : State := (t8Locked.setPt 0 (.finite 240 240)).setPt 1 (.finite 241 0)

theorem witness_PointCommandsComplete :
    atEdge.status.locked = true ∧ Nat.Prime atEdge.p.toNat ∧ 5 ≤ atEdge.p.toNat ∧
    atEdge.pointSource 0 = some { x := 240, y := 240, inf := false } ∧ atEdge.pointSource 4 = some atEdge.g ∧
    InRange atEdge { x := 240, y := 240, inf := false } ∧ InRange atEdge atEdge.g :=
  ⟨rfl, prime_241, by decide, by decide +kernel, by decide +kernel, .inr ⟨by decide +kernel, by decide +kernel⟩,
   .inr ⟨by decide +kernel, by decide +kernel⟩⟩

theorem witness_PointSourceNamesRegister :
    (0 : BitVec 4).toNat = (0 : Fin 4).val ∧ (3 : BitVec 4).toNat = (3 : Fin 4).val ∧ (4 : BitVec 4).toNat = 4 ∧
    5 ≤ (5 : BitVec 4).toNat ∧ 5 ≤ (15 : BitVec 4).toNat := by decide

theorem witness_PointOperandOutOfRange :
    atEdge.status.locked = true ∧ atEdge.pointSource 1 = some { x := 241, y := 0, inf := false } ∧
    atEdge.pointSource 0 = some { x := 240, y := 240, inf := false } ∧
    ¬ InRange atEdge { x := 241, y := 0, inf := false } := by
  refine ⟨rfl, by decide +kernel, by decide +kernel, ?_⟩
  unfold InRange
  decide +kernel

theorem witness_ScalarMulSmallCases : 0 < 1 ∧ Nat.Prime 241 ∧ 5 ≤ 241 ∧ PointInRange 241 (.finite 2 185) :=
  ⟨by decide, prime_241, by decide, by decide, by decide⟩

theorem witness_PdecompWritesCurvePoint :
    t8Locked.status.locked = true ∧ Nat.Prime t8Locked.p.toNat ∧ 5 ≤ t8Locked.p.toNat ∧
    2 < t8Locked.p.toNat ∧ 56 * 56 % 241 = curveRhs 241 238 1 2 ∧
    SamplerSucceeds 241 64 (withDraws t8 [0, 250, 1, 2, 3, 7]).port ∧
    0 * 0 % 241 = curveRhs 241 238 223 3 ∧ 3 < t8Locked.p.toNat ∧ curveRhs 241 238 1 2 ≠ 0 ∧
    FirstUsable 241 64 (withDraws t8 [0, 250, 1, 2, 3, 7]).port 5 :=
  ⟨rfl, prime_241, by decide, by decide, by decide +kernel, samplerSucceeds, by decide +kernel, by decide,
   by decide +kernel, firstUsable_5⟩

/-- V-PD3 to V-PD5: `x = P`, `x = 3` with a right side that is no residue, and `x = 2` with residues drawn. -/
theorem witness_PdecompErrors :
    t8Locked.status.locked = true ∧ t8Locked.p.toNat ≤ 241 ∧ 3 < t8Locked.p.toNat ∧ 5 ≤ t8Locked.p.toNat ∧
    curveRhs 241 238 1 3 ≠ 0 ∧ curveRhs 241 238 1 3 ^ ((241 - 1) / 2) % 241 ≠ 1 ∧
    curveRhs 241 238 1 2 ≠ 0 ∧ curveRhs 241 238 1 2 ^ ((241 - 1) / 2) % 241 = 1 ∧
    (withLimit t8Locked 2).build.drawLimit.toNat = 2 ∧ NoneUsable 241 2 (withDraws t8Locked [1, 2]).port :=
  ⟨rfl, by decide, by decide, by decide, by decide +kernel, by decide +kernel, by decide +kernel,
   by decide +kernel, by decide, noneUsable_of_residues (by decide) (by decide +kernel)⟩

/-- V-KG1: the draws `[0, 255, 227, 226]`; the bit counts 1 and `W`. -/
theorem witness_KeygenTakesFirstDrawInRange :
    (withDraws t8Locked [0, 255, 227, 226]).status.locked = true ∧ 1 ≤ (8 : BitVec 12).toNat ∧
    (8 : BitVec 12).toNat ≤ t8Locked.build.w ∧ (32 : BitVec 12).toNat ≤ t8Locked.build.w ∧
    (withDraws t8Locked [0, 255, 227, 226]).port.queue = [0, 255, 227] ++ 226 :: [] ∧
    (([0, 255, 227] : List Word).all fun z => z.toNat % 2 ^ 8 == 0 || t8Locked.n.toNat ≤ z.toNat % 2 ^ 8) = true ∧
    1 ≤ (226 : Word).toNat % 2 ^ 8 ∧ (226 : Word).toNat % 2 ^ 8 ≤ t8Locked.n.toNat - 1 := by decide +kernel

theorem witness_KeyRangeErrors :
    t8Locked.status.locked = true ∧ (0 : BitVec 12).toNat < 1 ∧ t8Locked.build.w < (33 : BitVec 12).toNat ∧
    t8Locked.d.toNat = 0 ∧ t8Locked.n.toNat ≤ ({ t8Locked with d := 227 } : State).d.toNat := by decide

theorem witness_PubkeyWritesMultiple :
    signer.status.locked = true ∧ Nat.Prime signer.p.toNat ∧ 5 ≤ signer.p.toNat ∧ 1 ≤ signer.d.toNat ∧
    signer.d.toNat < signer.n.toNat ∧ InRange signer signer.g ∧
    ({ signer with d := 226 } : State).d.toNat < signer.n.toNat :=
  ⟨rfl, prime_241, by decide, by decide, by decide, .inr ⟨by decide, by decide⟩, by decide⟩

/-- V-SG1 (`12 34`) and V-SG2 (`00 E3`, which reduces to 0); a buffer that differs beyond `HLEN`. -/
theorem witness_DigestReduction :
    2 ≤ signer.n.toNat ∧ os2i (signer.h.toList.take signer.hlen.toNat) % signer.n.toNat ≠ 0 ∧
    os2i ((withDigest signer 0 0xE3).h.toList.take signer.hlen.toNat) % signer.n.toNat = 0 ∧
    ∀ k : Fin 64, k.val < signer.hlen.toNat → (signer.h.set 63 9)[k] = signer.h[k] := by decide +kernel

/-- V-SG1: draws 0 and 230 out of range, 100 with `r = 0`, then 101. -/
theorem witness_SignWritesFirstGoodSignature :
    signer.status.locked = true ∧ 1 ≤ signer.d.toNat ∧ signer.d.toNat < signer.n.toNat ∧ InRange signer signer.g ∧
    signer.hexw ≤ 64 ∧ (withDraws signer [0, 230, 100, 101]).port.queue = [0, 230, 100] ++ 101 :: [] ∧
    (∀ z ∈ ([0, 230, 100] : List Word), SignRoundFails signer (z.toNat % 2 ^ signer.nbits.toNat)) ∧
    1 ≤ (101 : Word).toNat % 2 ^ signer.nbits.toNat ∧
    (101 : Word).toNat % 2 ^ signer.nbits.toNat ≤ signer.n.toNat - 1 ∧
    signer.mulPoint 101 signer.g.value = .ok (.finite 27 166) ∧ 27 % 227 ≠ 0 ∧
    (27 * signer.d.toNat + 101 * signer.digestToE) % 227 ≠ 0 := by
  refine ⟨rfl, by decide, by decide, .inr ⟨by decide, by decide⟩, by decide, by decide, ?_, by decide, by decide,
    by decide +kernel, by decide, by decide +kernel⟩
  intro z hz
  simp only [List.mem_cons, List.not_mem_nil, or_false] at hz
  rcases hz with rfl | rfl | rfl
  · exact .inl (by decide)
  · exact .inr (.inl (by decide))
  · exact .inr (.inr (.inr ⟨0, 1, by decide +kernel, .inl (by decide)⟩))

/-- V-SG3's other failing round: `s = 0` at `k = 96`. -/
theorem witness_SignRoundFails_s : SignRoundFails signer 96 :=
  .inr (.inr (.inr ⟨1, 64, by decide +kernel, .inr (by decide +kernel)⟩))

theorem stringWellFormed_1b27 : StringWellFormed (verifier string1b27) := by
  have h : ∀ c ∈ (verifier string1b27).sig.toList.take (2 * (verifier string1b27).hexw), (hexval c).isSome = true := by
    decide +kernel
  exact ⟨by decide +kernel, h⟩

theorem witness_VerifyVerdict :
    (verifier string1b27).status.locked = true ∧ Nat.Prime (verifier string1b27).p.toNat ∧
    5 ≤ (verifier string1b27).p.toNat ∧ Nat.Prime (verifier string1b27).n.toNat ∧
    (verifier string1b27).pointSource 0 = some { x := 122, y := 130, inf := false } ∧
    InRange (verifier string1b27) { x := 122, y := 130, inf := false } ∧
    InRange (verifier string1b27) (verifier string1b27).g ∧ StringWellFormed (verifier string1b27) ∧
    (let r := hexdec ((sigField (verifier string1b27)).take 2)
     let sv := hexdec ((sigField (verifier string1b27)).drop 2)
     1 ≤ r ∧ r < 227 ∧ 1 ≤ sv ∧ sv < 227) := by
  refine ⟨rfl, prime_241, by decide +kernel, prime_227, by decide +kernel, .inr ⟨by decide +kernel, by decide +kernel⟩,
    .inr ⟨by decide +kernel, by decide +kernel⟩, stringWellFormed_1b27, ?_⟩
  unfold sigField
  decide +kernel

/-- V-VF6, V-VF7, V-VF9: a wrong length, a character that is no digit, `r = 0` and `r = N`, `s = 0` and
`s = N`, a point out of range. -/
theorem witness_VerifyRejections :
    signer.status.locked = true ∧
    (verifier [0x31, 0x62, 0x32]).siglen.toNat ≠ 2 * signer.hexw ∧
    (verifier [0x67, 0x31, 0x32, 0x37]).siglen.toNat = 2 * signer.hexw ∧ hexval 0x67 = none ∧
    hexdec [0x30, 0x30] = 0 ∧ 227 ≤ hexdec [0x65, 0x33] ∧ 1 ≤ hexdec [0x31, 0x62] ∧ hexdec [0x31, 0x62] < 227 ∧
    StringWellFormed (verifier string1b27) ∧ ¬ InRange signer { x := 300, y := 1, inf := false } ∧
    ((verifier string1b27).setPt 2 (.finite 300 1)).pointSource 2 = some { x := 300, y := 1, inf := false } := by
  refine ⟨rfl, by decide +kernel, by decide +kernel, by decide, by decide, by decide, by decide, by decide,
    stringWellFormed_1b27, ?_, by decide +kernel⟩
  unfold InRange
  decide

theorem witness_VerifyAcceptsWhatSignProduced :
    tiny.status.locked = true ∧ Nat.Prime tiny.n.toNat ∧ tiny.nbits.toNat = bitlength tiny.n.toNat ∧
    tiny.nbits.toNat % 4 = 0 ∧ InRange tiny tiny.g ∧ 1 ≤ tiny.d.toNat ∧ tiny.d.toNat < tiny.n.toNat ∧
    ∃ q, tiny.mulPoint tiny.d.toNat tiny.g.value = .ok q ∧ PointInRange tiny.p.toNat q ∧ KeyGroupLaw tiny q ∧
      ∃ t, exec .sign tiny = .next t ∧ (t.status.err == 0) = true := by
  have hn : Nat.Prime tiny.n.toNat := by
    show Nat.Prime 13
    norm_num
  have law : ∀ z1 < 13, ∀ z2 < 13, groupLawAt tiny (.finite 2 2) z1 z2 = true := by decide +kernel
  refine ⟨rfl, hn, by decide +kernel, by decide, .inr ⟨by decide, by decide⟩, by decide, by decide,
    .finite 2 2, by decide +kernel, ⟨by decide, by decide⟩, ?_, exists_of_nextHas (by decide +kernel)⟩
  intro z1 h1 z2 h2
  exact groupLaw_of_check (law z1 h1 z2 h2)

theorem witness_SigencResults :
    t8Locked.status.locked = true ∧ t8Locked.hexw ≤ 64 ∧
    ((t8Locked.setSignature 0 255).sigr.toNat < 16 ^ t8Locked.hexw ∧
      (t8Locked.setSignature 0 255).sigs.toNat < 16 ^ t8Locked.hexw) ∧
    16 ^ t8Locked.hexw ≤ (t8Locked.setSignature 256 0).sigr.toNat ∧
    16 ^ t8Locked.hexw ≤ (t8Locked.setSignature 0 256).sigs.toNat := by decide +kernel

theorem witness_SigdecResults :
    (verifier string1b27).status.locked = true ∧ (verifier string1b27).hexw ≤ 64 ∧
    StringWellFormed (verifier string1b27) ∧ (verifier []).siglen.toNat ≠ 2 * (verifier []).hexw ∧
    (verifier [0x67, 0x31, 0x32, 0x37]).siglen.toNat = 2 * signer.hexw ∧ hexval 0x67 = none :=
  ⟨rfl, by decide +kernel, stringWellFormed_1b27, by decide +kernel, by decide +kernel, by decide⟩

theorem witness_SigencThenSigdecRoundTrip :
    255 < 16 ^ 2 ∧ t8Locked.status.locked = true ∧ t8Locked.hexw ≤ 64 ∧
    (t8Locked.setSignature 0 255).sigr.toNat < 16 ^ t8Locked.hexw ∧
    (t8Locked.setSignature 0 255).sigs.toNat < 16 ^ t8Locked.hexw ∧ StringWellFormed (verifier string1b27) :=
  ⟨by decide, rfl, by decide +kernel, by decide +kernel, by decide +kernel, stringWellFormed_1b27⟩

theorem witness_ResetMeetsInvariant :
    (build32 1).Wf ∧ ({ w := 256, base := 0x800, drawLimit := 0xFFFFFFFF } : Build).Wf ∧ Build.reference.Wf := by decide

theorem t8Locked_inv : t8Locked.Inv := by decide +kernel

theorem witness_StepKeepsInvariant : t8Locked.Inv ∧ ∃ t, step (t8Locked.withFetchWord 32 0x4122) = .next t ∧ true :=
  ⟨t8Locked_inv, exists_of_nextHas (by decide +kernel)⟩

theorem witness_LockedModuliAreOdd : t8Locked.Inv ∧ t8Locked.status.locked = true := ⟨t8Locked_inv, rfl⟩

theorem witness_DomainFrozenUntilReset :
    t8Locked.status.locked = true ∧ (atCommand 0x00000002).host.head? ≠ some .reset ∧
    ∃ t, step (atCommand 0x00000002) = .next t ∧ true :=
  ⟨rfl, by decide, exists_of_nextHas (by decide +kernel)⟩

theorem witness_HostInWindowStopsOnlyOnHang :
    ({ t8 with host := [.read 0x1000 4, .write 0x17FF 1 0, .reset] } : State).HostInWindow := by decide

end Sys2Proof.Tests
end

/-!
SUPPORT. Proofs about the primitives of spec/00_scope.md, and about what every command and every step keeps:
the arithmetic, the answers of the shared computations, the effects a command can have (`exec_effect`), and
the invariant.
-/

namespace Sys2Proof.Machine

open Sys2Proof Sys2Proof.Claims

/-! ### `bitlength` (R15) -/

theorem bitlength_eq_iff {x k : Nat} (hx : 0 < x) :
    bitlength x = k ↔ 1 ≤ k ∧ 2 ^ (k - 1) ≤ x ∧ x < 2 ^ k := by
  rw [bitlength, if_neg hx.ne']
  cases k with
  | zero => simp
  | succ k => simpa using Nat.log2_eq_iff hx.ne'

theorem bitlength_le_iff {x k : Nat} : bitlength x ≤ k ↔ x < 2 ^ k := by
  rcases Nat.eq_zero_or_pos x with rfl | hx
  · simp [bitlength]
  · rw [bitlength, if_neg hx.ne', Nat.succ_le_iff, Nat.log2_lt hx.ne']

theorem lt_two_pow_bitlength (x : Nat) : x < 2 ^ bitlength x := bitlength_le_iff.mp le_rfl

/-! ### `modexp` (R19) -/

/-- Square-and-multiply keeps `acc · base ^ e` modulo `m`. -/
theorem modexpLoop_eq (m : Nat) : ∀ fuel e base acc : Nat, e < 2 ^ fuel → acc < m →
    modexpLoop m fuel e base acc = acc * base ^ e % m := by
  intro fuel
  induction fuel with
  | zero =>
    intro e base acc he ha
    obtain rfl : e = 0 := by simpa using he
    simp [modexpLoop, Nat.mod_eq_of_lt ha]
  | succ fuel ih =>
    intro e base acc he ha
    have hm : 0 < m := by omega
    have he' : e / 2 < 2 ^ fuel := by rw [pow_succ] at he; omega
    have hsq : (base * base % m) ^ (e / 2) ≡ base ^ (2 * (e / 2)) [MOD m] := by
      rw [pow_mul, pow_two]
      exact (Nat.mod_modEq _ _).pow _
    rcases Nat.mod_two_eq_zero_or_one e with h | h
    · rw [modexpLoop, if_neg (by omega), ih _ _ _ he' ha]
      have hd : base ^ e = base ^ (2 * (e / 2)) := by
        congr 1
        omega
      rw [hd]
      exact hsq.mul_left acc
    · rw [modexpLoop, if_pos h, ih _ _ _ he' (Nat.mod_lt _ hm)]
      have hd : base ^ e = base * base ^ (2 * (e / 2)) := by
        rw [← pow_succ']
        congr 1
        omega
      rw [hd, ← mul_assoc]
      exact (Nat.mod_modEq _ _).mul hsq

theorem modexp_eq {m : Nat} (x e : Nat) (hm : 0 < m) : modexp x e m = x ^ e % m := by
  rw [modexp, modexpLoop_eq m _ _ _ _ (lt_two_pow_bitlength e) (Nat.mod_lt _ hm)]
  calc 1 % m * (x % m) ^ e % m
      = 1 * x ^ e % m := (Nat.mod_modEq 1 m).mul ((Nat.mod_modEq x m).pow e)
    _ = x ^ e % m := by rw [one_mul]

theorem modexp_lt {m : Nat} (x e : Nat) (hm : 0 < m) : modexp x e m < m := by
  rw [modexp_eq x e hm]
  exact Nat.mod_lt _ hm

/-! ### `legendre` (R20) -/

theorem legendre_eq {q : Nat} (x : Nat) (hq : 0 < q) : legendre x q = x ^ ((q - 1) / 2) % q :=
  modexp_eq x _ hq

theorem legendre_lt {q : Nat} (x : Nat) (hq : 0 < q) : legendre x q < q := modexp_lt x _ hq

theorem natCast_legendre {q : Nat} (x : Nat) (hq : 0 < q) :
    ((legendre x q : Nat) : ZMod q) = (x : ZMod q) ^ ((q - 1) / 2) := by
  rw [legendre_eq x hq, ZMod.natCast_mod, Nat.cast_pow]

theorem legendre_eq_zero_iff {x q : Nat} (hp : q.Prime) (hq : 3 ≤ q) : legendre x q = 0 ↔ q ∣ x := by
  rw [legendre_eq x hp.pos, ← Nat.dvd_iff_mod_eq_zero]
  exact hp.prime.dvd_pow_iff_dvd (by omega)

/-- Euler's criterion: where `q` does not divide `x`, the symbol is 1 or `q − 1`. -/
theorem legendre_eq_one_or {x q : Nat} (hp : q.Prime) (hq : 3 ≤ q) (hodd : q % 2 = 1) (hx : ¬ q ∣ x) :
    legendre x q = 1 ∨ legendre x q = q - 1 := by
  have : Fact q.Prime := ⟨hp⟩
  have hx' : (x : ZMod q) ≠ 0 := by rwa [Ne, ZMod.natCast_eq_zero_iff]
  have hd : (q - 1) / 2 = q / 2 := by omega
  have hlt := legendre_lt x hp.pos
  have hcast := natCast_legendre x hp.pos
  rw [hd] at hcast
  rcases ZMod.pow_div_two_eq_neg_one_or_one q hx' with h | h
  · left
    have h1 : ((legendre x q : Nat) : ZMod q) = (1 : Nat) := by rw [hcast, h, Nat.cast_one]
    exact Nat.ModEq.eq_of_lt_of_lt ((ZMod.natCast_eq_natCast_iff _ _ _).mp h1) hlt (by omega)
  · right
    have h1 : ((legendre x q : Nat) : ZMod q) = (q - 1 : Nat) := by
      rw [hcast, h, Nat.cast_sub hp.one_le, ZMod.natCast_self, Nat.cast_one, zero_sub]
    exact Nat.ModEq.eq_of_lt_of_lt ((ZMod.natCast_eq_natCast_iff _ _ _).mp h1) hlt (by omega)

/-! ### `inverse` (R18) -/

/-- The next coefficient of Euclid's algorithm, modulo `m`. -/
theorem natCast_euclid_coefficient (m q t0 t1 : Nat) (hm : 0 < m) :
    (((t0 + (m - q * t1 % m)) % m : Nat) : ZMod m) = t0 - q * t1 := by
  have hle : q * t1 % m ≤ m := (Nat.mod_lt _ hm).le
  rw [ZMod.natCast_mod, Nat.cast_add, Nat.cast_sub hle, ZMod.natCast_self, ZMod.natCast_mod, Nat.cast_mul]
  ring

/-- Euclid's algorithm ends at the greatest common divisor, with a coefficient of `x` for it below `m`. -/
theorem euclid_spec {m : Nat} (x : ZMod m) (hm : 0 < m) : ∀ fuel r0 r1 t0 t1 : Nat, r1 < fuel → t0 < m → t1 < m →
    (r0 : ZMod m) = t0 * x → (r1 : ZMod m) = t1 * x →
    (euclid m fuel r0 r1 t0 t1).1 = Nat.gcd r0 r1 ∧ (euclid m fuel r0 r1 t0 t1).2 < m ∧
    ((Nat.gcd r0 r1 : Nat) : ZMod m) = (euclid m fuel r0 r1 t0 t1).2 * x := by
  intro fuel
  induction fuel with
  | zero => intro r0 r1 t0 t1 hf; omega
  | succ fuel ih =>
    intro r0 r1 t0 t1 hf ht0 ht1 h0 h1
    by_cases hr : r1 = 0
    · simp [euclid, hr, ht0, h0]
    · have hlt : r0 % r1 < r1 := Nat.mod_lt _ (by omega)
      have hrem : ((r0 % r1 : Nat) : ZMod m) = ((t0 + (m - r0 / r1 * t1 % m)) % m : Nat) * x := by
        have hdiv : ((r0 % r1 : Nat) : ZMod m) + r1 * (r0 / r1 : Nat) = r0 := by
          exact_mod_cast congrArg (Nat.cast (R := ZMod m)) (Nat.mod_add_div r0 r1)
        rw [natCast_euclid_coefficient _ _ _ _ hm, eq_sub_of_add_eq hdiv, h0, h1]
        ring
      rw [euclid, if_neg hr, Nat.gcd_comm r0 r1, Nat.gcd_rec r1 r0, Nat.gcd_comm (r0 % r1) r1]
      exact ih r1 (r0 % r1) _ _ (by omega) ht1 (Nat.mod_lt _ hm) h1 hrem

/-- `inverse` answers, below the modulus, an inverse in the residue ring, exactly when the divisor is 1. -/
theorem inverse_cases {x m : Nat} (hm : 2 ≤ m) :
    (Nat.gcd (x % m) m = 1 ∧ ∃ v, inverse x m = some v ∧ v < m ∧ x * v % m = 1) ∨
    (Nat.gcd (x % m) m ≠ 1 ∧ inverse x m = none) := by
  obtain ⟨hgcd, hlt, hcoeff⟩ := euclid_spec (x : ZMod m) (by omega) (x % m + 1) m (x % m) 0 1 (by omega)
    (by omega) (by omega) (by simp) (by simp)
  rw [Nat.gcd_comm] at hgcd hcoeff
  by_cases h : Nat.gcd (x % m) m = 1
  · rw [h] at hgcd hcoeff
    refine .inl ⟨h, (euclid m (x % m + 1) m (x % m) 0 1).2, by simp [inverse, hgcd], hlt, ?_⟩
    have hmod : x * (euclid m (x % m + 1) m (x % m) 0 1).2 ≡ 1 [MOD m] := by
      rw [← ZMod.natCast_eq_natCast_iff, Nat.cast_mul, mul_comm]
      exact hcoeff.symm
    rw [hmod, Nat.mod_eq_of_lt (by omega)]
  · exact .inr ⟨h, by simp [inverse, hgcd, h]⟩

theorem inverse_lt {x m v : Nat} (hm : 2 ≤ m) (h : inverse x m = some v) : v < m := by
  rcases inverse_cases (x := x) hm with ⟨-, w, hw, hlt, -⟩ | ⟨-, hn⟩
  · rw [hw] at h
    cases h
    exact hlt
  · simp [hn] at h

/-- Two inverses below the modulus are equal. -/
theorem eq_of_mul_mod_eq_one {x m v w : Nat} (hv : v < m) (hw : w < m) (hxv : x * v % m = 1) (hxw : x * w % m = 1) :
    w = v := by
  have h1 : x * v ≡ x * w [MOD m] := hxv.trans hxw.symm
  have hmod : w ≡ v [MOD m] :=
    calc w = w * 1 := (mul_one w).symm
      _ = w * (x * v % m) := by rw [hxv]
      _ ≡ w * (x * v) [MOD m] := (Nat.mod_modEq _ _).mul_left w
      _ = v * (x * w) := by ring
      _ ≡ v * (x * w % m) [MOD m] := (Nat.mod_modEq _ _).symm.mul_left v
      _ = v := by rw [hxw, mul_one]
  exact hmod.eq_of_lt_of_lt hw hv

/-! ### Hexadecimal (R17) -/

theorem hexdigit_of_le_nine {v : Nat} (h : v ≤ 9) : hexdigit v = BitVec.ofNat 8 (0x30 + v) := if_pos h

theorem hexdigit_of_ten_le {v : Nat} (h : 10 ≤ v) : hexdigit v = BitVec.ofNat 8 (0x61 + (v - 10)) :=
  if_neg (by omega)

theorem hexval_hexdigit : ∀ v < 16, hexval (hexdigit v) = some v := by decide

/-- The bytes that are hexadecimal digits, in either letter case. -/
theorem hexval_isSome_iff (c : Byte) : (hexval c).isSome = true ↔
    (0x30 ≤ c.toNat ∧ c.toNat ≤ 0x39) ∨ (0x61 ≤ c.toNat ∧ c.toNat ≤ 0x66) ∨ (0x41 ≤ c.toNat ∧ c.toNat ≤ 0x46) := by
  unfold hexval
  split
  · simp [*]
  · split
    · simp [*]
    · split <;> simp [*]

theorem hexval_getD_lt (c : Byte) : (hexval c).getD 0 < 16 := by
  unfold hexval
  split
  · simp; omega
  · split
    · simp; omega
    · split <;> simp; omega

theorem hexenc_length (v w : Nat) : (hexenc v w).length = w := by
  induction w with
  | zero => rfl
  | succ w ih => simp [hexenc, ih]

theorem hexenc_isSome (v w : Nat) : ∀ c ∈ hexenc v w, (hexval c).isSome = true := by
  induction w with
  | zero => simp [hexenc]
  | succ w ih =>
    intro c hc
    rcases List.mem_cons.mp hc with rfl | hc
    · rw [hexval_hexdigit _ (Nat.mod_lt _ (by omega))]
      rfl
    · exact ih c hc

/-- Byte `i` is the digit of weight `16 ^ (w − 1 − i)`. -/
theorem hexenc_getElem? (v w : Nat) : ∀ i < w, (hexenc v w)[i]? = some (hexdigit (v >>> (4 * (w - 1 - i)) % 16)) := by
  induction w with
  | zero => simp
  | succ w ih =>
    intro i hi
    cases i with
    | zero => simp [hexenc, Nat.shiftRight_eq_div_pow, pow_mul]
    | succ i =>
      have hidx : w + 1 - 1 - (i + 1) = w - 1 - i := by omega
      rw [hexenc, List.getElem?_cons_succ, ih i (by omega), hidx]

/-- The fold of `hexdec` from any accumulator. -/
theorem hexdec_foldl (cs : List Byte) : ∀ a : Nat,
    cs.foldl (fun acc c => acc * 16 + (hexval c).getD 0) a = a * 16 ^ cs.length + hexdec cs := by
  induction cs with
  | nil => simp [hexdec]
  | cons c cs ih =>
    intro a
    rw [hexdec, List.foldl_cons, List.foldl_cons, ih, ih, List.length_cons, pow_succ]
    ring

/-- `hexdec` with the first digit taken out of the fold. -/
theorem hexdec_cons (c : Byte) (cs : List Byte) :
    hexdec (c :: cs) = (hexval c).getD 0 * 16 ^ cs.length + hexdec cs := by
  rw [hexdec, List.foldl_cons, hexdec_foldl, Nat.zero_mul, Nat.zero_add]

theorem hexdec_lt (bytes : List Byte) : hexdec bytes < 16 ^ bytes.length := by
  induction bytes with
  | nil => simp [hexdec]
  | cons c cs ih =>
    have hc := hexval_getD_lt c
    rw [hexdec_cons, List.length_cons, pow_succ']
    nlinarith

/-- The low `w` digits of `v` decode to `v mod 16 ^ w`. -/
theorem hexdec_hexenc (v w : Nat) : hexdec (hexenc v w) = v % 16 ^ w := by
  induction w with
  | zero => simp [hexenc, hexdec, Nat.mod_one]
  | succ w ih =>
    rw [hexenc, hexdec_cons, ih, hexenc_length, hexval_hexdigit _ (Nat.mod_lt _ (by omega)), Option.getD_some,
      pow_succ, Nat.mod_mul]
    ring

theorem hexdec_eq_sum (bytes : List Byte) :
    hexdec bytes = ∑ i : Fin bytes.length, (hexval bytes[i]).getD 0 * 16 ^ (bytes.length - 1 - i.val) := by
  induction bytes with
  | nil => simp [hexdec]
  | cons c cs ih =>
    rw [hexdec_cons, ih]
    simp [Fin.sum_univ_succ, Nat.sub_sub, add_comm]

/-! ### The answers of the shared computations

Each either answers a value in the range its caller relies on, or raises an error of R220. -/

/-- The error is one R220 has a command produce. -/
abbrev CmdError.Produced (e : CmdError) : Prop := (e.kind.code, e.info) ∈ producedCodes

/-- The computation answers a value with the property, or an error R220 has. -/
def Answer {α : Type} (ok : α → Prop) : Except CmdError α → Prop
  | .ok v => ok v
  | .error e => e.Produced

@[simp] theorem answer_ok {α : Type} {ok : α → Prop} {v : α} : Answer ok (.ok v) ↔ ok v := Iff.rfl

@[simp] theorem answer_error {α : Type} {ok : α → Prop} {e : CmdError} :
    Answer ok (.error e : Except CmdError α) ↔ e.Produced := Iff.rfl

theorem Answer.value {α : Type} {ok : α → Prop} {r : Except CmdError α} {v : α} (h : Answer ok r)
    (hv : r = .ok v) : ok v := by
  rwa [hv] at h

theorem Answer.produced {α : Type} {ok : α → Prop} {r : Except CmdError α} {e : CmdError} (h : Answer ok r)
    (he : r = .error e) : e.Produced := by
  rwa [he] at h

theorem Answer.mono {α : Type} {ok ok' : α → Prop} {r : Except CmdError α} (h : Answer ok r)
    (himp : ∀ v, ok v → ok' v) : Answer ok' r := by
  cases r with
  | ok v => exact himp v h
  | error e => exact h

theorem noInverse_produced : noInverse.Produced := by decide

theorem inverseOrRaise_answer (x m : Nat) : Answer (fun v => 2 ≤ m → v < m) (inverseOrRaise x m) := by
  rcases inverseOrRaise_cases x m with ⟨v, hv, h⟩ | ⟨-, h⟩
  · rw [h]
    exact fun hm => inverse_lt hm hv
  · rw [h]
    exact noInverse_produced

theorem montgomery_answer (w x y m : Nat) : Answer (fun v => 2 ≤ m → v < m) (montgomery w x y m) := by
  rcases inverseOrRaise_cases (2 ^ w) m with ⟨v, -, h⟩ | ⟨-, h⟩
  · rw [montgomery, h]
    exact fun hm => Nat.mod_lt _ (by omega)
  · rw [montgomery, h]
    exact noInverse_produced

/-! ### The solver (R160 to R164) and `Decompress` (R170) -/

theorem refine_lt {q : Nat} (xinv : Nat) (hq : 0 < q) : ∀ rounds c r : Nat, r < q → refine q xinv rounds c r < q := by
  intro rounds
  induction rounds with
  | zero => exact fun _ _ hr => hr
  | succ rounds ih =>
    intro c r hr
    rw [refine]
    refine ih _ _ ?_
    split
    · exact Nat.mod_lt _ hq
    · exact hr

theorem rootFrom_answer (x q b : Nat) : Answer (fun v => 0 < q → v < q) (rootFrom x q b) := by
  rcases inverseOrRaise_cases x q with ⟨v, -, h⟩ | ⟨-, h⟩
  · rw [rootFrom, h]
    exact fun hq => refine_lt _ hq _ _ _ (modexp_lt _ _ hq)
  · rw [rootFrom, h]
    exact noInverse_produced

theorem sqrt_answer (a q limit : Nat) (port : Port) : Answer (fun v => 0 < q → v < q) (sqrt a q limit port).1 := by
  rcases sqrt_cases a q limit port with ⟨-, h⟩ | ⟨-, -, h⟩ | ⟨-, -, port', ⟨-, h⟩ | ⟨b, -, h⟩⟩
  · rw [h]
    exact id
  · rw [h, answer_error]
    decide
  · rw [h, answer_error]
    decide
  · rw [h]
    exact rootFrom_answer _ q b

theorem pickRoot_lt {p beta : Nat} (par : Nat) (h : beta < p) : pickRoot p par beta < p := by
  unfold pickRoot
  split
  · exact h
  · exact Nat.mod_lt _ (by omega)

/-- `InvalidPoint` is produced with the `info` values of `NonResidue` (R220). -/
theorem decompressError_produced {e : CmdError} (h : e.Produced) : (decompressError e).Produced := by
  obtain ⟨kind, info⟩ := e
  cases kind <;> simp_all [decompressError, CmdError.Produced, ErrorKind.code, producedCodes]

/-- `Decompress` answers a point over `x`, its other coordinate in range. -/
theorem decompress_answer {p x : Nat} (a b par limit : Nat) (port : Port) (hp : 0 < p) :
    Answer (fun q => ∃ y < p, q = .finite x y) (decompress p a b par x limit port).1 := by
  have hs := sqrt_answer (curveRhs p a b x) p limit port
  rcases decompress_cases p a b par x limit port with ⟨beta, port', hr, h⟩ | ⟨e, port', hr, h⟩
  · rw [h]
    exact ⟨_, pickRoot_lt par (hs.value (congrArg Prod.fst hr) hp), rfl⟩
  · rw [h]
    exact decompressError_produced (hs.produced (congrArg Prod.fst hr))

/-! ### The point law (R173, R174, R178) -/

theorem thirdPoint_inRange {p : Nat} (lam x1 y1 x2 : Nat) (hp : 0 < p) :
    PointInRange p (thirdPoint p lam x1 y1 x2) :=
  ⟨residue_lt hp, residue_lt hp⟩

theorem double_answer {p : Nat} (a : Nat) {q : Point} (hq : PointInRange p q) :
    Answer (PointInRange p) (double p a q) := by
  rcases double_cases p a q with ⟨-, h⟩ | ⟨x, y, rfl, -, ⟨v, -, h⟩ | ⟨-, h⟩⟩
  · rw [h]
    trivial
  · rw [h]
    exact thirdPoint_inRange _ _ _ _ (Nat.zero_lt_of_lt hq.1)
  · rw [h]
    exact noInverse_produced

theorem add_answer {p : Nat} (a : Nat) {p1 p2 : Point} (h1 : PointInRange p p1) (h2 : PointInRange p p2) :
    Answer (PointInRange p) (add p a p1 p2) := by
  rcases add_cases p a p1 p2 with ⟨-, h⟩ | ⟨-, h⟩ | ⟨-, h⟩ | ⟨_, _, _, -, -, -, h⟩ |
    ⟨_, _, _, _, rfl, -, -, ⟨_, -, h⟩ | ⟨-, h⟩⟩
  · rw [h]
    exact h2
  · rw [h]
    exact h1
  · rw [h]
    exact double_answer a h1
  · rw [h]
    trivial
  · rw [h]
    exact thirdPoint_inRange _ _ _ _ (Nat.zero_lt_of_lt h1.1)
  · rw [h]
    exact noInverse_produced

theorem scalarMulLoop_answer {p : Nat} (a : Nat) : ∀ (rounds k : Nat) (acc addend : Point),
    PointInRange p acc → PointInRange p addend → Answer (PointInRange p) (scalarMulLoop p a rounds k acc addend) := by
  intro rounds
  induction rounds with
  | zero => exact fun _ _ _ hacc _ => hacc
  | succ rounds ih =>
    intro k acc addend hacc hadd
    have hsum : Answer (PointInRange p) (if k % 2 = 1 then add p a acc addend else .ok acc) := by
      split
      · exact add_answer a hacc hadd
      · exact hacc
    have hdbl := double_answer a hadd
    rw [scalarMulLoop]
    split
    · next e h => exact hsum.produced h
    · next acc' h =>
      split
      · next e h' => exact hdbl.produced h'
      · next addend' h' =>
        exact ih _ _ _ (hsum.value h) (hdbl.value h')

theorem mulPoint_answer (s : State) (k : Nat) {q : Point} (hq : PointInRange s.p.toNat q) :
    Answer (PointInRange s.p.toNat) (s.mulPoint k q) :=
  scalarMulLoop_answer _ _ _ _ _ trivial hq

theorem readPoint_answer (s : State) (q : PointReg) : Answer (PointInRange s.p.toNat) (s.readPoint q) := by
  rcases s.readPoint_cases q with ⟨hr, h⟩ | ⟨-, h⟩
  · rw [h, answer_ok]
    cases hi : q.inf with
    | true => simp [PointReg.value, hi, PointInRange]
    | false => simpa [PointReg.value, hi, PointInRange] using hr
  · rw [h, answer_error]
    decide

/-- A point operand that is read is in range, and its value is what is read (R171). -/
theorem inRange_of_readPoint {s : State} {q : PointReg} {g : Point} (h : s.readPoint q = .ok g) :
    InRange s q ∧ g = q.value := by
  rcases s.readPoint_cases q with ⟨hr, h'⟩ | ⟨-, h'⟩
  · rw [h'] at h
    cases h
    exact ⟨hr, rfl⟩
  · rw [h'] at h
    cases h

theorem readPoint_of_inRange {s : State} {q : PointReg} (h : InRange s q) : s.readPoint q = .ok q.value := by
  rcases s.readPoint_cases q with ⟨-, h'⟩ | ⟨hr, -⟩
  · exact h'
  · exact absurd h hr

/-! ### Signatures (R196, R199, R200) -/

theorem sigDecode_answer (s : State) :
    Answer (fun rs => rs.1 < 16 ^ s.hexw ∧ rs.2 < 16 ^ s.hexw) s.sigDecode := by
  have hlt : ∀ bytes : List Byte, bytes.length ≤ s.hexw → hexdec bytes < 16 ^ s.hexw := fun bytes h =>
    (hexdec_lt bytes).trans_le (Nat.pow_le_pow_right (by omega) h)
  rcases s.sigDecode_cases with ⟨-, h⟩ | ⟨-, -, h⟩ | ⟨-, -, h⟩
  · rw [h, answer_error]
    decide
  · rw [h, answer_error]
    decide
  · rw [h]
    exact ⟨hlt _ (by simp), hlt _ (by simp; omega)⟩

theorem verifyEquation_answer {s : State} {g q : Point} (r sv v : Nat) (hg : PointInRange s.p.toNat g)
    (hq : PointInRange s.p.toNat q) : Answer (fun _ => True) (s.verifyEquation g q r sv v) := by
  have h1 := mulPoint_answer s (sv * v % s.n.toNat) hg
  have h2 := mulPoint_answer s ((s.n.toNat - r * v % s.n.toNat) % s.n.toNat) hq
  unfold State.verifyEquation
  dsimp only
  split
  · next e h => exact h1.produced h
  · next c1 hc1 =>
    split
    · next e h => exact h2.produced h
    · next c2 hc2 =>
      have h3 : Answer (PointInRange s.p.toNat) (s.addPoints c1 c2) := add_answer _ (h1.value hc1) (h2.value hc2)
      split
      · next e h => exact h3.produced h
      · trivial
      · trivial

theorem verifyResult_answer (s : State) (qr : PointReg) : Answer (fun _ => True) (s.verifyResult qr) := by
  have hd := sigDecode_answer s
  have hq := readPoint_answer s qr
  have hg := readPoint_answer s s.g
  unfold State.verifyResult
  split
  · next e h => exact hd.produced h
  · next r sv h =>
    split
    · exact answer_error.mpr (by decide)
    · split
      · exact answer_error.mpr (by decide)
      · split
        · next e h => exact hq.produced h
        · next e _ h => exact hg.produced h
        · next q g h h' =>
          rcases inverseOrRaise_cases s.digestToE s.n.toNat with ⟨v, -, hv⟩ | ⟨-, hv⟩
          · rw [hv]
            exact verifyEquation_answer _ _ _ (hg.value h') (hq.value h)
          · rw [hv]
            exact noInverse_produced

/-- The components a round of `SIGN` answers are residues of `N`. -/
theorem components_lt {s : State} {e k r sv : Nat} {c : Point} (hn : 0 < s.n.toNat)
    (h : s.components e k c = some (r, sv)) : r < s.n.toNat ∧ sv < s.n.toNat := by
  cases c with
  | infinity => simp [State.components] at h
  | finite x y =>
    simp only [State.components] at h
    split at h
    · cases h
      exact ⟨Nat.mod_lt _ hn, Nat.mod_lt _ hn⟩
    · cases h

theorem signRound_answer {s : State} {g : Point} (e k : Nat) (hg : PointInRange s.p.toNat g) :
    Answer (fun o => ∀ r sv, o = some (r, sv) → r < s.n.toNat ∧ sv < s.n.toNat) (s.signRound g e k) := by
  have hm := mulPoint_answer s k hg
  unfold State.signRound
  split
  · simp
  · split
    · next err h => exact hm.produced h
    · exact fun r sv h => components_lt (by omega) h

/-- A round of `SIGN` rejects its draw exactly where R196 has it fail. -/
theorem signRound_none_iff {s : State} (k : Nat) :
    s.signRound s.g.value s.digestToE k = .ok none ↔ SignRoundFails s k := by
  unfold State.signRound SignRoundFails
  by_cases hk : k = 0 ∨ s.n.toNat ≤ k
  · rw [if_pos hk]
    tauto
  · rw [if_neg hk]
    cases hc : s.mulPoint k s.g.value with
    | error err => simp; omega
    | ok c =>
      cases c with
      | infinity => simp [State.components]
      | finite x y =>
        simp [State.components]
        omega

/-! ### Retry loops (R190, R196) -/

/-- A retry loop ends with the answer or the error of one of its rounds, or not at all. -/
theorem retryLoop_cases {α : Type} (k : Nat) (round : Nat → Except CmdError (Option α)) (rounds : Nat) :
    ∀ port : Port, (∃ u v port', round u = .ok (some v) ∧ retryLoop k round rounds port = .done v port') ∨
      (∃ u e port', round u = .error e ∧ retryLoop k round rounds port = .failed e port') ∨
      retryLoop k round rounds port = .endless := by
  induction rounds with
  | zero => exact fun _ => .inr (.inr rfl)
  | succ rounds ih =>
    intro port
    rw [retryLoop]
    split
    · next e h => exact .inr (.inl ⟨_, e, _, h, rfl⟩)
    · next v h => exact .inl ⟨_, v, _, h, rfl⟩
    · exact ih _

theorem Port.retry_cases {α : Type} (port : Port) (k : Nat) (round : Nat → Except CmdError (Option α)) :
    (∃ u v port', round u = .ok (some v) ∧ port.retry k round = .done v port') ∨
    (∃ u e port', round u = .error e ∧ port.retry k round = .failed e port') ∨ port.retry k round = .endless :=
  retryLoop_cases k round _ port

/-- A retry that has no end has rejected every draw lined up. -/
theorem Port.retry_endless_rejects {α : Type} {port : Port} {k : Nat} {round : Nat → Except CmdError (Option α)}
    (h : port.retry k round = .endless) : ∀ z ∈ port.queue, round (z.toNat % 2 ^ k) = .ok none :=
  retryLoop_endless_rejects k round _ port (Nat.le_add_left _ _) h

/-- A retry that every answer of the port fails has no end. -/
theorem Port.retry_endless {α : Type} {port : Port} {k : Nat} {round : Nat → Except CmdError (Option α)}
    (h : ∀ z : Word, z ∈ port.queue ∨ (∃ m, z = Config.freeDraw m) → round (z.toNat % 2 ^ k) = .ok none) :
    port.retry k round = .endless :=
  retryLoop_endless k round (fun m => h _ (.inr ⟨m, rfl⟩)) _ port fun z hz => h z (.inl hz)

theorem keygenRound_none_iff (n u : Nat) : keygenRound n u = .ok none ↔ u = 0 ∨ n ≤ u := by
  unfold keygenRound
  split
  · simp; omega
  · simp; omega

/-! ### `INIT`'s checks (R131) -/

theorem domainFailure_produced {s : State} {info : Byte} (h : s.domainFailure = some info) :
    CmdError.Produced { kind := .invalidDomain, info := info } := by
  simp only [State.domainFailure] at h
  split_ifs at h <;> cases h <;> decide

/-- The seven checks pass. -/
theorem domainFailure_eq_none_iff (s : State) : s.domainFailure = none ↔
    (s.p.toNat % 2 = 1 ∧ 5 ≤ s.p.toNat) ∧ (s.a.toNat < s.p.toNat ∧ s.b.toNat < s.p.toNat) ∧
    (4 * s.a.toNat * s.a.toNat * s.a.toNat + 27 * s.b.toNat * s.b.toNat) % s.p.toNat ≠ 0 ∧
    (s.n.toNat % 2 = 1 ∧ 3 ≤ s.n.toNat) ∧ bitlength s.n.toNat % 4 = 0 ∧ s.gcx.toNat < s.p.toNat ∧
    1 ≤ s.hlen.toNat ∧ s.hlen.toNat ≤ 64 := by
  simp only [State.domainFailure]
  split_ifs <;> simp <;> omega

/-! ### What a command can come to -/

/-- The commands that draw from the random-number port (R24). -/
def takesDraws : Instr → Bool
  | .init | .modsqrt _ _ _ | .pdecomp _ _ _ | .keygen _ | .sign => true
  | .zeroize | .modadd _ _ _ _ | .modsub _ _ _ _ | .modmul _ _ _ _ | .mmul _ _ _ _ | .modexp _ _ _ _ => false
  | .modred _ _ _ | .modinv _ _ _ | .legendre _ _ _ | .padd _ _ _ | .pdbl _ _ | .psmul _ _ _ => false
  | .pubkey _ | .verify _ | .sigenc | .sigdec => false

/-- Everything a command can come to, with the guards it has then passed and the range of what it writes.
The port is a later one only where the command draws. -/
inductive Effect (i : Instr) (s : State) : Result → Prop
  /-- An error of R220 (R25). -/
  | raised (e : CmdError) (port : Port) (hp : port = s.port ∨ takesDraws i = true) (he : e.Produced) :
      Effect i s (.next ((s.setPort port).raise e))
  /-- A field command: a residue of its modulus. -/
  | scalar (rd : Fin 8) (v : Nat) (m : ModSel) (port : Port) (hp : port = s.port ∨ takesDraws i = true)
      (hd : scalarDest i = some rd) (hl : s.status.locked = true) (hv : 2 ≤ s.modulus m → v < s.modulus m) :
      Effect i s (.next ((s.setPort port).setS rd v).succeed)
  /-- A point command: a point in range. -/
  | point (rd : Fin 4) (q : Point) (port : Port) (hp : port = s.port ∨ takesDraws i = true)
      (hd : pointDest i = some rd) (hl : s.status.locked = true) (hq : PointInRange s.p.toNat q) :
      Effect i s (.next ((s.setPort port).setPt rd q).succeed)
  /-- A successful `INIT` (R131). -/
  | locked (y : Nat) (port : Port) (hi : i = .init) (hl : s.status.locked = false)
      (hc : s.domainFailure = none) (hy : y < s.p.toNat) :
      Effect i s (.next ((s.setPort port).lockDomain (.finite s.gcx.toNat y) (bitlength s.n.toNat)).succeed)
  /-- `ZEROIZE` (R133). -/
  | zeroized (hi : i = .zeroize) : Effect i s (.next s.clearWorking.succeed)
  /-- A successful `KEYGEN` (R190). -/
  | key (bits : BitVec 12) (u : Nat) (port : Port) (hi : i = .keygen bits) (hl : s.status.locked = true)
      (hu : u < s.n.toNat) : Effect i s (.next ((s.setPort port).setD u).succeed)
  /-- A successful `SIGN` (R196). -/
  | signed (r sv : Nat) (port : Port) (hi : i = .sign) (hl : s.status.locked = true)
      (hr : r < s.n.toNat) (hs : sv < s.n.toNat) :
      Effect i s (.next (((s.setPort port).setSignature r sv).setSigString (sigEncode s.hexw r sv)).succeed)
  /-- A `VERIFY` that reaches its verdict (R200). -/
  | verdict (ra : BitVec 4) (accept : Bool) (hi : i = .verify ra) (hl : s.status.locked = true) :
      Effect i s (.next (s.endCommand accept 0 0))
  /-- A successful `SIGENC` (R206). -/
  | encoded (hi : i = .sigenc) (hl : s.status.locked = true) :
      Effect i s (.next (s.setSigString (sigEncode s.hexw s.sigr.toNat s.sigs.toNat)).succeed)
  /-- A successful `SIGDEC` (R208). -/
  | decoded (r sv : Nat) (hi : i = .sigdec) (hl : s.status.locked = true)
      (hr : r < 16 ^ s.hexw) (hs : sv < 16 ^ s.hexw) : Effect i s (.next (s.setSignature r sv).succeed)
  /-- A `KEYGEN` no round of which exits (R28). -/
  | keygenHangs (bits : BitVec 12) (hi : i = .keygen bits) (hl : s.status.locked = true)
      (hb : 1 ≤ bits.toNat ∧ bits.toNat ≤ s.build.w)
      (he : s.port.retry bits.toNat (keygenRound s.n.toNat) = .endless) : Effect i s (.fault .endlessRetry)
  /-- A `SIGN` no round of which exits (R28). -/
  | signHangs (hi : i = .sign) (hl : s.status.locked = true)
      (hk : 1 ≤ s.d.toNat ∧ s.d.toNat < s.n.toNat) (hg : InRange s s.g)
      (he : s.port.retry s.nbits.toNat (s.signRound s.g.value s.digestToE) = .endless) :
      Effect i s (.fault .endlessRetry)

/-! ### The shared ends of the meanings -/

section

variable {i : Instr} {s : State}

/-- An error raised before any draw. -/
theorem Effect.raise {e : CmdError} (he : e.Produced) : Effect i s (.next (s.raise e)) :=
  .raised e s.port (.inl rfl) he

theorem Effect.whenLocked {body : Result} (h : s.status.locked = true → Effect i s body) :
    Effect i s (s.whenLocked body) := by
  rcases s.whenLocked_cases body with ⟨hl, hb⟩ | ⟨-, hb⟩
  · rw [hb]
    exact h hl
  · rw [hb]
    exact .raise (by decide)

theorem Effect.withSource {j : BitVec 4} {use : PointReg → Result} (h : ∀ q, Effect i s (use q)) :
    Effect i s (s.withSource j use) := by
  rcases s.withSource_cases j use with ⟨q, -, hu⟩ | ⟨-, hu⟩
  · rw [hu]
    exact h q
  · rw [hu]
    exact .raise (by decide)

theorem Effect.finishScalar {rd : Fin 8} (m : ModSel) {r : Except CmdError Nat} {port : Port}
    (hp : port = s.port ∨ takesDraws i = true) (hd : scalarDest i = some rd) (hl : s.status.locked = true)
    (hr : Answer (fun v => 2 ≤ s.modulus m → v < s.modulus m) r) :
    Effect i s ((s.setPort port).finishScalar rd r) := by
  rcases (s.setPort port).finishScalar_cases rd r with ⟨v, hv, h⟩ | ⟨e, he, h⟩
  · rw [h]
    exact .scalar rd v m port hp hd hl (hr.value hv)
  · rw [h]
    exact .raised e port hp (hr.produced he)

theorem Effect.finishPoint {rd : Fin 4} {r : Except CmdError Point} {port : Port}
    (hp : port = s.port ∨ takesDraws i = true) (hd : pointDest i = some rd) (hl : s.status.locked = true)
    (hr : Answer (PointInRange s.p.toNat) r) : Effect i s ((s.setPort port).finishPoint rd r) := by
  rcases (s.setPort port).finishPoint_cases rd r with ⟨q, hq, h⟩ | ⟨e, he, h⟩
  · rw [h]
    exact .point rd q port hp hd hl (hr.value hq)
  · rw [h]
    exact .raised e port hp (hr.produced he)

theorem Effect.fieldCommand {rd : Fin 8} (m : ModSel) {v : Nat} (hd : scalarDest i = some rd)
    (hv : 0 < s.modulus m → v < s.modulus m) : Effect i s (s.fieldCommand rd v) :=
  .whenLocked fun hl => .finishScalar (port := s.port) m (.inl rfl) hd hl fun hm => hv (by omega)

end

/-! ### One command each -/

theorem execInit_effect (s : State) : Effect .init s (execInit s) := by
  unfold execInit
  cases hl : s.status.locked with
  | true => exact .raise (by decide)
  | false =>
    simp only [Bool.false_eq_true, if_false]
    cases hc : s.domainFailure with
    | some info => exact .raise (domainFailure_produced hc)
    | none =>
      obtain ⟨⟨-, hp5⟩, -⟩ := (domainFailure_eq_none_iff s).mp hc
      have ha : Answer _ (s.decompress s.gcpar.toNat s.gcx.toNat).1 :=
        decompress_answer s.a.toNat s.b.toNat s.gcpar.toNat s.drawLimit s.port (by omega : 0 < s.p.toNat)
      rcases hd : s.decompress s.gcpar.toNat s.gcx.toNat with ⟨e | g, port⟩
      · rw [hd] at ha
        exact .raised e port (.inr rfl) ha
      · rw [hd] at ha
        obtain ⟨y, hy, rfl⟩ := ha
        exact .locked y port rfl hl hc hy

theorem execModsqrt_effect (rd ra : Fin 8) (m : ModSel) (s : State) :
    Effect (.modsqrt rd ra m) s (execModsqrt rd ra m s) :=
  .whenLocked fun hl => .finishScalar m (.inr rfl) rfl hl
    ((sqrt_answer _ _ _ _).mono fun _ hv hm => hv (by omega))

theorem execMmul_effect (rd ra rb : Fin 8) (m : ModSel) (s : State) :
    Effect (.mmul rd ra rb m) s (execMmul rd ra rb m s) :=
  .whenLocked fun hl => .finishScalar (port := s.port) m (.inl rfl) rfl hl (montgomery_answer _ _ _ _)

theorem execModinv_effect (rd ra : Fin 8) (m : ModSel) (s : State) :
    Effect (.modinv rd ra m) s (execModinv rd ra m s) :=
  .whenLocked fun hl => .finishScalar (port := s.port) m (.inl rfl) rfl hl (inverseOrRaise_answer _ _)

theorem execPdecomp_effect (rd : Fin 4) (ra : Fin 8) (par : Byte) (s : State) :
    Effect (.pdecomp rd ra par) s (execPdecomp rd ra par s) := by
  refine .whenLocked fun hl => ?_
  split
  · exact .raise (by decide)
  · have hp : 0 < s.p.toNat := by omega
    refine .finishPoint (.inr rfl) rfl hl ((decompress_answer _ _ _ _ _ hp).mono ?_)
    rintro _ ⟨y, hy, rfl⟩
    exact ⟨by omega, hy⟩

theorem execPadd_effect (rd : Fin 4) (ra rb : BitVec 4) (s : State) :
    Effect (.padd rd ra rb) s (execPadd rd ra rb s) := by
  refine .withSource fun qa => .withSource fun qb => .whenLocked fun hl =>
    .finishPoint (port := s.port) (.inl rfl) rfl hl ?_
  have ha := readPoint_answer s qa
  have hb := readPoint_answer s qb
  split
  · next e _ h => exact ha.produced h
  · next e _ h => exact hb.produced h
  · next h h' => exact add_answer _ (ha.value h) (hb.value h')

theorem execPdbl_effect (rd : Fin 4) (ra : BitVec 4) (s : State) :
    Effect (.pdbl rd ra) s (execPdbl rd ra s) := by
  refine .withSource fun qa => .whenLocked fun hl => .finishPoint (port := s.port) (.inl rfl) rfl hl ?_
  have ha := readPoint_answer s qa
  split
  · next h => exact ha.produced h
  · next h => exact double_answer _ (ha.value h)

theorem execPsmul_effect (rd : Fin 4) (ra : BitVec 4) (rb : Fin 8) (s : State) :
    Effect (.psmul rd ra rb) s (execPsmul rd ra rb s) := by
  refine .withSource fun qa => .whenLocked fun hl => .finishPoint (port := s.port) (.inl rfl) rfl hl ?_
  have ha := readPoint_answer s qa
  split
  · next h => exact ha.produced h
  · next h => exact mulPoint_answer s _ (ha.value h)

theorem execKeygen_effect (bits : BitVec 12) (s : State) : Effect (.keygen bits) s (execKeygen bits s) := by
  refine .whenLocked fun hl => ?_
  split
  · exact .raise (by decide)
  · next hb =>
    rcases s.port.retry_cases bits.toNat (keygenRound s.n.toNat) with ⟨u, v, port, hu, h⟩ | ⟨u, e, port, hu, h⟩ | h
    · rw [h]
      refine .key bits v port rfl hl ?_
      unfold keygenRound at hu
      split at hu
      · cases hu
        omega
      · cases hu
    · unfold keygenRound at hu
      split at hu <;> cases hu
    · rw [h]
      exact .keygenHangs bits rfl hl (by omega) h

theorem keyOutOfRange_eq_false_iff (s : State) :
    s.keyOutOfRange = false ↔ 1 ≤ s.d.toNat ∧ s.d.toNat < s.n.toNat := by
  simp [State.keyOutOfRange, Nat.one_le_iff_ne_zero]

theorem execPubkey_effect (rd : Fin 4) (s : State) : Effect (.pubkey rd) s (execPubkey rd s) := by
  refine .whenLocked fun hl => ?_
  split
  · exact .raise (by decide)
  · refine .finishPoint (port := s.port) (.inl rfl) rfl hl ?_
    have hg := readPoint_answer s s.g
    split
    · next h => exact hg.produced h
    · next h => exact mulPoint_answer s _ (hg.value h)

theorem execSign_effect (s : State) : Effect .sign s (execSign s) := by
  refine .whenLocked fun hl => ?_
  split
  · exact .raise (by decide)
  · next hk =>
    have hg := readPoint_answer s s.g
    split
    · next h => exact .raise (hg.produced h)
    · next g h =>
      have hround := fun u => signRound_answer s.digestToE u (hg.value h)
      rcases s.port.retry_cases s.nbits.toNat (s.signRound g s.digestToE) with
        ⟨u, ⟨r, sv⟩, port, hu, hr⟩ | ⟨u, e, port, hu, hr⟩ | hr
      · rw [hr]
        obtain ⟨hlt, hlt'⟩ := (hround u).value hu r sv rfl
        exact .signed r sv port rfl hl hlt hlt'
      · rw [hr]
        exact .raised e port (.inr rfl) ((hround u).produced hu)
      · rw [hr]
        obtain ⟨hin, rfl⟩ := inRange_of_readPoint h
        exact .signHangs rfl hl ((keyOutOfRange_eq_false_iff s).mp (by simpa using hk)) hin hr

theorem execVerify_effect (ra : BitVec 4) (s : State) : Effect (.verify ra) s (execVerify ra s) := by
  refine .withSource fun qr => .whenLocked fun hl => ?_
  split
  · next h => exact .raise ((verifyResult_answer s qr).produced h)
  · exact .verdict ra _ rfl hl

theorem execSigenc_effect (s : State) : Effect .sigenc s (execSigenc s) := by
  refine .whenLocked fun hl => ?_
  split
  · exact .raise (by decide)
  · exact .encoded rfl hl

theorem execSigdec_effect (s : State) : Effect .sigdec s (execSigdec s) := by
  refine .whenLocked fun hl => ?_
  have hd := sigDecode_answer s
  split
  · next h => exact .raise (hd.produced h)
  · next rs h =>
    obtain ⟨hr, hs⟩ := hd.value h
    exact .decoded rs.1 rs.2 rfl hl hr hs

/-- What `exec` answers is one of the effects, for every command in every state. -/
theorem exec_effect (i : Instr) (s : State) : Effect i s (exec i s) := by
  cases i with
  | init => exact execInit_effect s
  | zeroize => exact .zeroized rfl
  | modadd rd ra rb m => exact .fieldCommand m rfl residue_lt
  | modsub rd ra rb m => exact .fieldCommand m rfl residue_lt
  | modmul rd ra rb m => exact .fieldCommand m rfl residue_lt
  | mmul rd ra rb m => exact execMmul_effect rd ra rb m s
  | modred rd ra m => exact .fieldCommand m rfl (Nat.mod_lt _)
  | modexp rd ra rb m => exact .fieldCommand m rfl (modexp_lt _ _)
  | modinv rd ra m => exact execModinv_effect rd ra m s
  | legendre rd ra m => exact .fieldCommand m rfl (legendre_lt _)
  | modsqrt rd ra m => exact execModsqrt_effect rd ra m s
  | pdecomp rd ra par => exact execPdecomp_effect rd ra par s
  | padd rd ra rb => exact execPadd_effect rd ra rb s
  | pdbl rd ra => exact execPdbl_effect rd ra s
  | psmul rd ra rb => exact execPsmul_effect rd ra rb s
  | keygen bits => exact execKeygen_effect bits s
  | pubkey rd => exact execPubkey_effect rd s
  | sign => exact execSign_effect s
  | verify ra => exact execVerify_effect ra s
  | sigenc => exact execSigenc_effect s
  | sigdec => exact execSigdec_effect s

/-! ### The invariant: registers fit `W` bits -/

theorem toWord_toNat_le (v : Nat) : (toWord v).toNat ≤ v := by
  rw [toWord, BitVec.toNat_ofNat]
  exact Nat.mod_le _ _

theorem fits_toWord {s : State} {v : Nat} {x : Word} (hx : s.Fits x) (hv : v ≤ x.toNat) : s.Fits (toWord v) :=
  (toWord_toNat_le v).trans_lt (hv.trans_lt hx)

theorem fits_zero (s : State) : s.Fits 0 := Nat.two_pow_pos _

/-- A property of every register of a bank, after one of them is written. -/
theorem forall_getElem_set {α : Type} {k : Nat} {P : α → Prop} {bank : Vector α k} (h : ∀ j : Fin k, P bank[j])
    (i : Fin k) {x : α} (hx : P x) : ∀ j : Fin k, P (bank.set i x)[j] := by
  intro j
  rw [Fin.getElem_fin, Vector.getElem_set]
  split
  · exact hx
  · exact h j

theorem State.fits_modulus {s : State} (hw : s.WidthsOk) (m : ModSel) : s.modulus m < 2 ^ s.build.w := by
  obtain ⟨hp, -, -, hn, -⟩ := hw
  cases m with
  | p => exact hp
  | n => exact hn

theorem State.widthsOk_setS {s : State} (hw : s.WidthsOk) (rd : Fin 8) {v : Nat} (hv : v < 2 ^ s.build.w) :
    (s.setS rd v).WidthsOk := by
  obtain ⟨hp, ha, hb, hn, hx, hd, hs, hpt, hg, hr, hv'⟩ := hw
  exact ⟨hp, ha, hb, hn, hx, hd, forall_getElem_set (P := s.Fits) hs rd ((toWord_toNat_le v).trans_lt hv), hpt, hg,
    hr, hv'⟩

theorem State.pointFits_ofPoint {s : State} (hp : s.Fits s.p) {q : Point} (hq : PointInRange s.p.toNat q) :
    s.PointFits (PointReg.ofPoint q) := by
  cases q with
  | infinity => exact ⟨fits_zero s, fits_zero s⟩
  | finite x y => exact ⟨fits_toWord hp hq.1.le, fits_toWord hp hq.2.le⟩

theorem State.widthsOk_setPt {s : State} (hw : s.WidthsOk) (rd : Fin 4) {q : Point}
    (hq : PointInRange s.p.toNat q) : (s.setPt rd q).WidthsOk := by
  obtain ⟨hp, ha, hb, hn, hx, hd, hs, hpt, hg, hr, hv⟩ := hw
  exact ⟨hp, ha, hb, hn, hx, hd, hs, forall_getElem_set (P := s.PointFits) hpt rd (pointFits_ofPoint hp hq), hg, hr, hv⟩

theorem State.widthsOk_setD {s : State} (hw : s.WidthsOk) {v : Nat} (hv : v < s.n.toNat) :
    (s.setD v).WidthsOk := by
  obtain ⟨hp, ha, hb, hn, hx, -, hrest⟩ := hw
  exact ⟨hp, ha, hb, hn, hx, fits_toWord hn hv.le, hrest⟩

theorem State.widthsOk_setSignature {s : State} (hw : s.WidthsOk) {r sv : Nat} (hr : r < 2 ^ s.build.w)
    (hs : sv < 2 ^ s.build.w) : (s.setSignature r sv).WidthsOk := by
  obtain ⟨hp, ha, hb, hn, hx, hd, hsreg, hpt, hg, -, -⟩ := hw
  exact ⟨hp, ha, hb, hn, hx, hd, hsreg, hpt, hg, (toWord_toNat_le r).trans_lt hr, (toWord_toNat_le sv).trans_lt hs⟩

theorem State.widthsOk_lockDomain {s : State} (hw : s.WidthsOk) {g : Point} (hg : PointInRange s.p.toNat g)
    (l : Nat) : (s.lockDomain g l).WidthsOk := by
  obtain ⟨hp, ha, hb, hn, hx, hd, hs, hpt, -, hsig⟩ := hw
  exact ⟨hp, ha, hb, hn, hx, hd, hs, hpt, pointFits_ofPoint hp hg, hsig⟩

theorem State.widthsOk_clearWorking {s : State} (hw : s.WidthsOk) : s.clearWorking.WidthsOk := by
  obtain ⟨hp, ha, hb, hn, hx, -, -, -, hg, -, -⟩ := hw
  refine ⟨hp, ha, hb, hn, hx, fits_zero s, fun i => ?_, fun j => ?_, hg, fits_zero s, fits_zero s⟩
  · simp [State.clearWorking]
  · simp [State.clearWorking, PointReg.identity]

/-! ### The invariant: what `LOCKED` says -/

theorem State.lockOk_iff_of_locked {s : State} (hl : s.status.locked = true) : s.LockOk ↔
    s.domainFailure = none ∧ s.nbits.toNat = bitlength s.n.toNat ∧ s.g.inf = false ∧ s.g.x = s.gcx ∧
      s.g.y.toNat < s.p.toNat := by
  rw [State.LockOk, if_pos hl]

theorem State.lockOk_iff_of_unlocked {s : State} (hl : s.status.locked = false) :
    s.LockOk ↔ s.g = PointReg.identity ∧ s.nbits = 0 := by
  rw [State.LockOk, if_neg (by simp [hl])]

/-- On a locked core in the invariant both moduli are at least 2. -/
theorem State.two_le_modulus {s : State} (h : s.LockOk) (hl : s.status.locked = true) (m : ModSel) :
    2 ≤ s.modulus m := by
  obtain ⟨⟨-, hp⟩, -, -, ⟨-, hn⟩, -⟩ := (domainFailure_eq_none_iff s).mp ((lockOk_iff_of_locked hl).mp h).1
  cases m with
  | p => exact le_trans (by omega) hp
  | n => exact le_trans (by omega) hn

/-- The hexadecimal digits of a signature component fit a register of a locked core (R8). -/
theorem State.sixteen_pow_hexw_le {s : State} (hw : s.WidthsOk) (h : s.LockOk) (hl : s.status.locked = true) :
    16 ^ s.hexw ≤ 2 ^ s.build.w := by
  obtain ⟨-, -, -, hn, -⟩ := hw
  obtain ⟨-, hnb, -⟩ := (lockOk_iff_of_locked hl).mp h
  have hle : s.nbits.toNat ≤ s.build.w := hnb ▸ bitlength_le_iff.mpr hn
  calc 16 ^ s.hexw = 2 ^ (4 * s.hexw) := by rw [pow_mul, show 2 ^ 4 = 16 from rfl]
    _ ≤ 2 ^ s.build.w := Nat.pow_le_pow_right (by omega) (by unfold State.hexw; omega)

/-- A successful `INIT` meets what `LOCKED` says. -/
theorem State.lockOk_lockDomain {s : State} (hc : s.domainFailure = none) {y : Nat}
    (hy : y < s.p.toNat) : (s.lockDomain (.finite s.gcx.toNat y) (bitlength s.n.toNat)).LockOk := by
  have hlen : bitlength s.n.toNat ≤ 256 := bitlength_le_iff.mpr s.n.isLt
  refine (lockOk_iff_of_locked rfl).mpr ⟨hc, ?_, rfl, toWord_of_toNat s.gcx, (toWord_toNat_le y).trans_lt hy⟩
  rw [State.lockDomain_nbits, State.lockDomain_n, BitVec.toNat_ofNat]
  exact Nat.mod_eq_of_lt (by omega)

/-! ### The invariant after a command -/

/-- The end of a command leaves the widths and the lock part as they are: `STATUS` must be a produced one. -/
theorem State.inv_endCommand {s : State} {valid : Bool} {err info : Byte} (hb : s.build.Wf) (hw : s.WidthsOk)
    (hl : s.LockOk) (hc : (err, info) ∈ producedCodes) (hv : valid = true → err = 0 ∧ info = 0) :
    (s.endCommand valid err info).Inv :=
  ⟨hb, hw, hl, hc, hv⟩

theorem State.inv_raise {s : State} {e : CmdError} (hb : s.build.Wf) (hw : s.WidthsOk) (hl : s.LockOk)
    (he : e.Produced) : (s.raise e).Inv :=
  inv_endCommand hb hw hl he (by simp)

theorem State.inv_succeed {s : State} (hb : s.build.Wf) (hw : s.WidthsOk) (hl : s.LockOk) : s.succeed.Inv :=
  inv_endCommand hb hw hl (by decide) (by simp)

/-- Every effect of a command keeps the invariant. -/
theorem Effect.keeps_inv {i : Instr} {s t : State} (h : Effect i s (.next t)) (hi : s.Inv) : t.Inv := by
  obtain ⟨hb, hw, hlock, -⟩ := hi
  have hmod := State.fits_modulus hw
  cases h with
  | raised e port hp he => exact State.inv_raise hb hw hlock he
  | scalar rd v m port hp hd hl hv =>
    have hlt := hv (State.two_le_modulus hlock hl m)
    exact State.inv_succeed hb (State.widthsOk_setS (s := s.setPort port) hw rd (hlt.trans (hmod m))) hlock
  | point rd q port hp hd hl hq =>
    exact State.inv_succeed hb (State.widthsOk_setPt (s := s.setPort port) hw rd hq) hlock
  | locked y port hi hl hc hy =>
    obtain ⟨-, -, -, -, -, hx, -⟩ := (domainFailure_eq_none_iff s).mp hc
    exact State.inv_succeed hb (State.widthsOk_lockDomain (s := s.setPort port) (g := .finite s.gcx.toNat y) hw ⟨hx, hy⟩ _)
      (State.lockOk_lockDomain (s := s.setPort port) hc hy)
  | zeroized hi => exact State.inv_succeed hb (State.widthsOk_clearWorking hw) hlock
  | key bits u port hi hl hu =>
    exact State.inv_succeed hb (State.widthsOk_setD (s := s.setPort port) hw hu) hlock
  | signed r sv port hi hl hr hs =>
    exact State.inv_succeed hb
      (State.widthsOk_setSignature (s := s.setPort port) hw (hr.trans (hmod .n)) (hs.trans (hmod .n))) hlock
  | verdict ra accept hi hl => exact State.inv_endCommand hb hw hlock (by decide) fun _ => ⟨rfl, rfl⟩
  | encoded hi hl => exact State.inv_succeed hb hw hlock
  | decoded r sv hi hl hr hs =>
    have hle := State.sixteen_pow_hexw_le hw hlock hl
    exact State.inv_succeed hb (State.widthsOk_setSignature hw (hr.trans_le hle) (hs.trans_le hle)) hlock

theorem exec_keeps_inv {i : Instr} {s t : State} (hi : s.Inv) (h : exec i s = .next t) : t.Inv :=
  (h ▸ exec_effect i s).keeps_inv hi

theorem runCommand_keeps_inv {w : BusWord} {s t : State} (hi : s.Inv) (h : runCommand w s = .next t) : t.Inv := by
  unfold runCommand at h
  split at h
  · exact exec_keeps_inv hi h
  · next e _ =>
    cases h
    obtain ⟨hb, hw, hl, -⟩ := hi
    exact State.inv_raise hb hw hl (by cases e <;> decide)

/-! ### The invariant after a host access or a reset -/

theorem State.ifUnlocked_cases (s s' : State) :
    (s.status.locked = true ∧ s.ifUnlocked s' = s) ∨ (s.status.locked = false ∧ s.ifUnlocked s' = s') := by
  cases h : s.status.locked <;> simp [State.ifUnlocked, h]

theorem State.widthsOk_ifUnlocked {s s' : State} (h : s.WidthsOk) (h' : s'.WidthsOk) : (s.ifUnlocked s').WidthsOk := by
  rcases s.ifUnlocked_cases s' with ⟨-, he⟩ | ⟨-, he⟩
  · rwa [he]
  · rwa [he]

/-- A register written limb by limb keeps to the build's limbs (R74). -/
theorem State.fits_writeLimb {s : State} (hb : s.build.Wf) {x : Word} (hx : s.Fits x) (i : Fin 8) (v : BusWord) :
    s.Fits (writeLimb s.build.nlimb x i v) := by
  have hlimbs : s.build.w = 32 * s.build.nlimb := (Nat.mul_div_cancel' (Nat.dvd_of_mod_eq_zero hb.1)).symm
  rw [State.Fits, hlimbs] at hx ⊢
  exact writeLimb_lt hx

theorem State.widthsOk_memWrite {s : State} (hb : s.build.Wf) (hw : s.WidthsOk) (off : Nat) (v : BusWord) :
    (s.memWrite off v).WidthsOk := by
  have hw' := hw
  obtain ⟨hp, ha, hb', hn, hx, hd, hs, hpt, hg, hr, hsv⟩ := hw'
  have limb := @State.fits_writeLimb s hb
  unfold State.memWrite
  cases locate off with
  | p i => exact widthsOk_ifUnlocked hw ⟨limb hp i v, ha, hb', hn, hx, hd, hs, hpt, hg, hr, hsv⟩
  | a i => exact widthsOk_ifUnlocked hw ⟨hp, limb ha i v, hb', hn, hx, hd, hs, hpt, hg, hr, hsv⟩
  | b i => exact widthsOk_ifUnlocked hw ⟨hp, ha, limb hb' i v, hn, hx, hd, hs, hpt, hg, hr, hsv⟩
  | n i => exact widthsOk_ifUnlocked hw ⟨hp, ha, hb', limb hn i v, hx, hd, hs, hpt, hg, hr, hsv⟩
  | gcx i => exact widthsOk_ifUnlocked hw ⟨hp, ha, hb', hn, limb hx i v, hd, hs, hpt, hg, hr, hsv⟩
  | d i => exact ⟨hp, ha, hb', hn, hx, limb hd i v, hs, hpt, hg, hr, hsv⟩
  | s k i =>
    exact ⟨hp, ha, hb', hn, hx, hd, forall_getElem_set (P := s.Fits) hs k (limb (hs k) i v), hpt, hg, hr, hsv⟩
  | ptX j i =>
    exact ⟨hp, ha, hb', hn, hx, hd, hs,
      forall_getElem_set (P := s.PointFits) hpt j ⟨limb (hpt j).1 i v, (hpt j).2⟩, hg, hr, hsv⟩
  | ptY j i =>
    exact ⟨hp, ha, hb', hn, hx, hd, hs,
      forall_getElem_set (P := s.PointFits) hpt j ⟨(hpt j).1, limb (hpt j).2 i v⟩, hg, hr, hsv⟩
  | ptFlags j =>
    exact ⟨hp, ha, hb', hn, hx, hd, hs, forall_getElem_set (P := s.PointFits) hpt j (hpt j), hg, hr, hsv⟩
  | sigr i => exact ⟨hp, ha, hb', hn, hx, hd, hs, hpt, hg, limb hr i v, hsv⟩
  | sigs i => exact ⟨hp, ha, hb', hn, hx, hd, hs, hpt, hg, hr, limb hsv i v⟩
  | hlen | gcpar => exact widthsOk_ifUnlocked hw hw
  | _ => exact hw

/-- The lock keeps the host from the domain registers (R51). -/
theorem State.memWrite_domain_of_locked {s : State} (hl : s.status.locked = true) (off : Nat) (v : BusWord) :
    (s.memWrite off v).p = s.p ∧ (s.memWrite off v).a = s.a ∧ (s.memWrite off v).b = s.b ∧
    (s.memWrite off v).n = s.n ∧ (s.memWrite off v).gcx = s.gcx ∧ (s.memWrite off v).gcpar = s.gcpar ∧
    (s.memWrite off v).hlen = s.hlen := by
  have hu : ∀ s', s.ifUnlocked s' = s := fun s' => if_pos hl
  unfold State.memWrite
  cases locate off <;> simp [State.writeLocation, hu]

theorem State.domainFailure_congr {s t : State} (hp : t.p = s.p) (ha : t.a = s.a) (hb : t.b = s.b) (hn : t.n = s.n)
    (hx : t.gcx = s.gcx) (hh : t.hlen = s.hlen) : t.domainFailure = s.domainFailure := by
  simp only [State.domainFailure, hp, ha, hb, hn, hx, hh]

theorem State.lockOk_memWrite {s : State} (h : s.LockOk) (off : Nat) (v : BusWord) : (s.memWrite off v).LockOk := by
  obtain ⟨-, -, -, -, hg, hnb, hlk⟩ := s.memWrite_environment off v
  cases hl : s.status.locked with
  | true =>
    obtain ⟨hp, ha, hb, hn, hx, -, hh⟩ := memWrite_domain_of_locked hl off v
    rw [State.LockOk, hlk, domainFailure_congr hp ha hb hn hx hh, hnb, hn, hg, hx, hp]
    exact h
  | false =>
    obtain ⟨hid, h0⟩ := (lockOk_iff_of_unlocked hl).mp h
    exact (lockOk_iff_of_unlocked (hlk.trans hl)).mpr ⟨hg.trans hid, hnb.trans h0⟩

/-- A host write leaves what `STATUS` shows of the last command. -/
theorem State.memWrite_codes (s : State) (off : Nat) (v : BusWord) :
    (s.memWrite off v).status.err = s.status.err ∧ (s.memWrite off v).status.errInfo = s.status.errInfo ∧
    (s.memWrite off v).status.valid = s.status.valid := by
  have hu : ∀ s', s'.status = s.status → (s.ifUnlocked s').status = s.status := by
    intro s' h
    rcases s.ifUnlocked_cases s' with ⟨-, he⟩ | ⟨-, he⟩ <;> simp [he, h]
  unfold State.memWrite
  cases locate off <;> simp only [State.writeLocation, and_self, hu]
  case status =>
    rw [State.acknowledgeDone_status]
    unfold Status.hostWrite
    split <;> exact ⟨rfl, rfl, rfl⟩

theorem State.codesOk_memWrite {s : State} (h : s.CodesOk) (off : Nat) (v : BusWord) : (s.memWrite off v).CodesOk := by
  obtain ⟨he, hi, hv⟩ := s.memWrite_codes off v
  rw [State.CodesOk, he, hi, hv]
  exact h

theorem State.inv_memWrite {s : State} (h : s.Inv) (off : Nat) (v : BusWord) : (s.memWrite off v).Inv := by
  obtain ⟨hb, hw, hl, hc⟩ := h
  refine ⟨?_, widthsOk_memWrite hb hw off v, lockOk_memWrite hl off v, codesOk_memWrite hc off v⟩
  rw [(s.memWrite_environment off v).1]
  exact hb

theorem resetOf_inv {b : Build} (hb : b.Wf) : (State.resetOf b).Inv := by
  have h0 := fits_zero (State.resetOf b)
  refine ⟨hb, ⟨h0, h0, h0, h0, h0, h0, fun i => ?_, fun j => ?_, ⟨h0, h0⟩, h0, h0⟩,
    (State.lockOk_iff_of_unlocked rfl).mpr ⟨rfl, rfl⟩, List.mem_cons_self, fun _ => ⟨rfl, rfl⟩⟩
  · simp [State.resetOf]
  · simp [State.resetOf, PointReg.identity]

/-- Every step keeps the invariant. -/
theorem step_keeps_inv {s t : State} (hi : s.Inv) (h : step s = .next t) : t.Inv := by
  rcases step_next_cases h with ⟨w, u, -, hu, rfl⟩ | ⟨-, rfl⟩ | ⟨-, rfl⟩ | ⟨-, rfl⟩ | ⟨off, -, rfl⟩ | ⟨off, v, -, rfl⟩
  · exact (runCommand_keeps_inv hi hu : u.Inv)
  · exact hi
  · exact resetOf_inv hi.1
  · exact hi
  · exact hi
  · exact State.inv_memWrite hi off v

end Sys2Proof.Machine

namespace Sys2Proof.Claims

open Sys2Proof Sys2Proof.Machine

/-! ### The primitives of spec/00_scope.md, settled -/

/-- Settles O1, from the bounds of the binary logarithm. -/
theorem bitlengthBoundsItsArgument : Obligations.BitlengthBoundsItsArgument :=
  ⟨rfl, fun _ _ hx => bitlength_eq_iff hx⟩

/-- Settles O2: the loop of square-and-multiply keeps `acc · base ^ e` modulo `m`. -/
theorem modexpIsPowerModulo : Obligations.ModexpIsPowerModulo := by
  intro x e m hm
  have hpow := fun y k => modexp_eq (m := m) y k (by omega)
  refine ⟨hpow x e, ?_, fun he => ?_⟩
  · rw [hpow, pow_zero, Nat.mod_eq_of_lt (by omega)]
  · rw [hpow, zero_pow (by omega), Nat.zero_mod]

/-- Settles O3: Euclid's algorithm ends at the divisor with a coefficient of `x` for it. -/
theorem inverseIsUniqueInverse : Obligations.InverseIsUniqueInverse := by
  intro x m hm
  rcases inverse_cases (x := x) hm with ⟨hgcd, v, hv, hlt, hmul⟩ | ⟨hgcd, hnone⟩
  · have hpos : v ≠ 0 := by
      rintro rfl
      simp at hmul
    refine ⟨fun _ => ⟨v, hv, by omega, by omega, hmul, fun w _ hw hxw => ?_⟩, fun h => absurd hgcd h, fun h => ?_⟩
    · exact eq_of_mul_mod_eq_one hlt (by omega) hmul hxw
    · rw [h, Nat.gcd_zero_left] at hgcd
      omega
  · exact ⟨fun h => absurd h hgcd, fun _ => hnone, fun _ => hnone⟩

/-- Settles O4, by the loop of `modexp` and Euler's criterion. -/
theorem legendreIsEulerPower : Obligations.LegendreIsEulerPower := by
  intro x q hq hodd
  have hlt := legendre_lt x (by omega : 0 < q)
  refine ⟨legendre_eq x (by omega), by omega, fun hp => ⟨?_, legendre_eq_zero_iff hp hq⟩⟩
  by_cases hx : q ∣ x
  · exact .inr (.inr ((legendre_eq_zero_iff hp hq).mpr hx))
  · rcases legendre_eq_one_or hp hq hodd hx with h | h
    · exact .inl h
    · exact .inr (.inl h)

/-- Settles O5, by induction on the digits. -/
theorem hexFieldRoundTrip : Obligations.HexFieldRoundTrip := by
  refine ⟨fun v => ⟨hexdigit_of_le_nine, fun h _ => hexdigit_of_ten_le h⟩, fun w v hv => ?_, fun c => ?_,
    fun bytes _ => hexdec_eq_sum bytes⟩
  · exact ⟨hexenc_length v w, hexenc_isSome v w, by rw [hexdec_hexenc, Nat.mod_eq_of_lt hv], hexenc_getElem? v w⟩
  · refine ⟨fun h1 h2 => ?_, fun h1 h2 => ?_, fun h1 h2 => ?_, fun h => ?_⟩
    · rw [hexval, if_pos ⟨h1, h2⟩]
    · rw [hexval, if_neg (by omega), if_pos ⟨h1, h2⟩]
    · rw [hexval, if_neg (by omega), if_neg (by omega), if_pos ⟨h1, h2⟩]
    · exact (hexval_isSome_iff c).mp (Option.isSome_iff_ne_none.mpr h)

/-! ### Every command and every step, settled -/

/-- Settles O57: every effect of a command, every host access and a reset keep the invariant. -/
theorem stepKeepsInvariant : Obligations.StepKeepsInvariant := fun _ _ => step_keeps_inv

/-- Settles O22: of the effects of a command, only a raised error shows `ERR` other than 0. -/
theorem errorChangesOnlyStatus : Obligations.ErrorChangesOnlyStatus := by
  intro i s t h herr
  cases (h ▸ exec_effect i s : Effect i s (.next t)) with
  | raised e port hp he => rfl
  | _ => exact absurd rfl herr

/-- A command without a next state is a retry loop that has rejected every draw lined up (R28). -/
theorem unfinished_of_not_next {i : Instr} {s : State} (h : ∀ t, exec i s ≠ .next t) :
    exec i s = .fault .endlessRetry ∧ s.status.locked = true ∧
    ((i = .sign ∧ 1 ≤ s.d.toNat ∧ s.d.toNat < s.n.toNat ∧ InRange s s.g ∧
        ∀ z ∈ s.port.queue, SignRoundFails s (z.toNat % 2 ^ s.nbits.toNat)) ∨
      ∃ bits, i = .keygen bits ∧ 1 ≤ bits.toNat ∧ bits.toNat ≤ s.build.w ∧
        ∀ z ∈ s.port.queue, z.toNat % 2 ^ bits.toNat = 0 ∨ s.n.toNat ≤ z.toNat % 2 ^ bits.toNat) := by
  have heff := exec_effect i s
  generalize exec i s = r at h heff
  cases heff with
  | keygenHangs bits hi hl hb he =>
    exact ⟨rfl, hl, .inr ⟨bits, hi, hb.1, hb.2, fun z hz =>
      (keygenRound_none_iff _ _).mp (Port.retry_endless_rejects he z hz)⟩⟩
  | signHangs hi hl hk hg he =>
    exact ⟨rfl, hl, .inl ⟨hi, hk.1, hk.2, hg, fun z hz =>
      (signRound_none_iff _).mp (Port.retry_endless_rejects he z hz)⟩⟩
  | _ => exact absurd rfl (h _)

/-- Settles O25: the two effects without a next state, and a loop whose every answer fails. -/
theorem unfinishedCommandIsRetryLoop : Obligations.UnfinishedCommandIsRetryLoop := by
  refine ⟨fun _ _ => unfinished_of_not_next, fun s bits hl h1 hw hz => ?_, fun s hl h1 hn hg hz => ?_⟩
  · have hloop : s.port.retry bits.toNat (keygenRound s.n.toNat) = .endless :=
      Port.retry_endless fun z h => (keygenRound_none_iff _ _).mpr (hz z h)
    change execKeygen bits s = _
    rw [execKeygen, s.whenLocked_locked _ hl, if_neg (by omega), hloop]
  · have hloop : s.port.retry s.nbits.toNat (s.signRound s.g.value s.digestToE) = .endless :=
      Port.retry_endless fun z h => (signRound_none_iff _).mpr (hz z h)
    change execSign s = _
    rw [execSign, State.whenLocked_locked _ hl, (keyOutOfRange_eq_false_iff s).mpr ⟨h1, hn⟩,
      readPoint_of_inRange hg, if_neg (by decide)]
    simp only [hloop]

/-- Settles O20: without a next state the command is a retry loop that rejected every draw lined up. -/
theorem everyCommandHasNextStateOrHangs : Obligations.EveryCommandHasNextStateOrHangs := by
  refine ⟨fun i s hs hk => ?_, fun i s => ?_, fun s bits hz => ?_, fun s hz => ?_⟩
  · by_contra hn
    rcases (unfinished_of_not_next (not_exists.mp hn)).2.2 with ⟨hi, -⟩ | ⟨bits, hi, -⟩
    · exact hs hi
    · exact hk bits hi
  · exact or_iff_not_imp_left.mpr fun hn => (unfinished_of_not_next (not_exists.mp hn)).1
  · by_contra hn
    obtain ⟨z, hmem, h1, h2⟩ := hz
    rcases (unfinished_of_not_next (not_exists.mp hn)).2.2 with ⟨hi, -⟩ | ⟨bits', hi, -, -, hrej⟩
    · cases hi
    · cases hi
      have := hrej z hmem
      omega
  · by_contra hn
    obtain ⟨z, hmem, hok⟩ := hz
    rcases (unfinished_of_not_next (not_exists.mp hn)).2.2 with ⟨-, -, -, -, hrej⟩ | ⟨bits', hi, -⟩
    · exact hok (hrej z hmem)
    · cases hi

end Sys2Proof.Claims

/-!
SUPPORT. Proofs about the registers: what stands at each word of the window, and what a host write, a command
and a reset change of them.
-/

namespace Sys2Proof.Machine

open Sys2Proof Sys2Proof.Claims

/-! ### The window: one location for each word offset (R54, R71) -/

/-- What holds of the reserved location, and of every location whose offset this is, holds of what stands there. -/
theorem locate_cases {P : Location → Prop} {off : Nat} (h : off < 0x800) (h4 : off % 4 = 0) (hr : P .reserved)
    (hl : ∀ l, offsetOf l = off → P l) : P (locate off) := by
  rcases offsetOf_locate h h4 with he | he
  · rwa [he]
  · exact hl _ he

/-- The offsets R71 gives no register. -/
theorem locate_of_no_register {off : Nat} (h4 : off % 4 = 0)
    (h : (0x028 ≤ off ∧ off ≤ 0x03F) ∨ (∃ j < 4, 0x244 + 0x80 * j ≤ off ∧ off ≤ 0x27F + 0x80 * j) ∨
      (0x444 ≤ off ∧ off ≤ 0x47F) ∨ (0x4C0 ≤ off ∧ off ≤ 0x4FF) ∨ (0x540 ≤ off ∧ off ≤ 0x5FF) ∨
      (0x680 ≤ off ∧ off ≤ 0x7FF)) : locate off = .reserved := by
  have hlt : off < 0x800 := by omega
  refine locate_cases (P := (· = .reserved)) hlt h4 rfl fun l hl => ?_
  cases l with
  | reserved => rfl
  | _ =>
    simp only [offsetOf] at hl
    omega

/-- A host write to the generator's registers is ignored (R42). -/
theorem State.memWrite_generator (s : State) (v : BusWord) {off : Nat} (h4 : off % 4 = 0) (h : 0x400 ≤ off)
    (h' : off ≤ 0x440) : s.memWrite off v = s := by
  refine locate_cases (P := fun l => s.writeLocation v l = s) (by omega) h4 rfl fun l hl => ?_
  cases l with
  | gX | gY | gFlags => rfl
  | _ =>
    simp only [offsetOf] at hl
    omega

theorem State.memWrite_of_locked_parameter (s : State) (hl : s.status.locked = true) (v : BusWord) {off : Nat}
    (h4 : off % 4 = 0) (h : off = 0x018 ∨ off = 0x020 ∨ (0x040 ≤ off ∧ off ≤ 0x0DF)) :
    s.memWrite off v = s := by
  refine locate_cases (P := fun l => s.writeLocation v l = s) (by omega) h4 rfl fun l ho => ?_
  cases l with
  | hlen | gcpar | p | a | b | n | gcx => exact if_pos hl
  | _ =>
    simp only [offsetOf] at ho
    omega

/-- A write of a limb leaves the bits of the others. -/
theorem extractLsb'_writeLimb_ne {nlimb : Nat} {x : Word} {i j : Fin 8} {v : BusWord} (hij : i ≠ j) :
    (writeLimb nlimb x i v).extractLsb' (32 * j.val) 32 = x.extractLsb' (32 * j.val) 32 := by
  by_cases hi : i.val < nlimb
  · have h8 : writeLimb nlimb x i v = writeLimb 8 x i v := by simp [writeLimb, hi]
    rw [h8]
    simpa [readLimb] using readLimb_writeLimb_ne (nlimb := 8) (x := x) (v := v) hij
  · rw [writeLimb, if_neg hi]

theorem toNat_flagWord (inf : Bool) : (flagWord inf).toNat = if inf then 1 else 0 := by cases inf <;> rfl

/-- An observation of a register of a bank that a write of the bank does not change. -/
theorem getElem_set_congr {α β : Type} {k : Nat} (f : α → β) {bank : Vector α k} {i j : Fin k} {x : α}
    (h : i = j → f x = f bank[j]) : f (bank.set i x)[j] = f bank[j] := by
  rw [Fin.getElem_fin, Vector.getElem_set]
  split
  · exact h (Fin.ext ‹_›)
  · rfl

/-- A register of a bank stays where another one is written. -/
theorem getElem_set_eq_or {α : Type} {k : Nat} {bank : Vector α k} {rd : Fin k} {x : α} (j : Fin k) :
    (bank.set rd x)[j] = bank[j] ∨ rd = j :=
  or_iff_not_imp_right.mpr fun hne => getElem_set_congr id fun he => absurd he hne

theorem State.readLocation_ifUnlocked {s s' : State} {l : Location} (h : s'.readLocation l = s.readLocation l) :
    (s.ifUnlocked s').readLocation l = s.readLocation l := by
  rcases s.ifUnlocked_cases s' with ⟨-, he⟩ | ⟨-, he⟩ <;> rw [he]
  exact h

/-- A point register is read at its own limbs and flags only. -/
theorem State.readLocation_congr_pt {s : State} {k : Fin 4} {q : PointReg} {l : Location}
    (hx : ∀ i, l = .ptX k i → readLimb s.build.nlimb q.x i = readLimb s.build.nlimb s.pt[k].x i)
    (hy : ∀ i, l = .ptY k i → readLimb s.build.nlimb q.y i = readLimb s.build.nlimb s.pt[k].y i)
    (hf : l = .ptFlags k → q.inf = s.pt[k].inf) :
    ({ s with pt := s.pt.set k q } : State).readLocation l = s.readLocation l := by
  cases l with
  | ptX m i =>
    exact getElem_set_congr (fun r : PointReg => readLimb s.build.nlimb r.x i) fun hk => hk ▸ hx i (by rw [hk])
  | ptY m i =>
    exact getElem_set_congr (fun r : PointReg => readLimb s.build.nlimb r.y i) fun hk => hk ▸ hy i (by rw [hk])
  | ptFlags m => exact getElem_set_congr (fun r : PointReg => flagWord r.inf) fun hk => by rw [hf (by rw [hk]), hk]
  | _ => rfl

/-- The buffer `H` is read at its own words only. -/
theorem State.readLocation_congr_h {s : State} {buf : Vector Byte 64} {l : Location}
    (hm : ∀ m, l = .h m → readLanes buf m.val = readLanes s.h m.val) :
    ({ s with h := buf } : State).readLocation l = s.readLocation l := by
  cases l with
  | h m => exact hm m rfl
  | _ => rfl

/-- The buffer `SIG` is read at its own words only. -/
theorem State.readLocation_congr_sig {s : State} {buf : Vector Byte 128} {l : Location}
    (hm : ∀ m, l = .sig m → readLanes buf m.val = readLanes s.sig m.val) :
    ({ s with sig := buf } : State).readLocation l = s.readLocation l := by
  cases l with
  | sig m => exact hm m rfl
  | _ => rfl

/-- A write to one location leaves what every other one reads. -/
theorem State.readLocation_writeLocation_ne (s : State) (v : BusWord) {l l' : Location} (h : l ≠ l') :
    (s.writeLocation v l).readLocation l' = s.readLocation l' := by
  cases l with
  | id | cmd | cfgw | nbits | drawlim | gX | gY | gFlags | reserved => rfl
  | d => cases l' <;> rfl
  | ctrl => cases l' with
    | ctrl => exact absurd rfl h
    | _ => rfl
  | status => cases l' with
    | status => exact absurd rfl h
    | _ => rfl
  | siglen => cases l' with
    | siglen => exact absurd rfl h
    | _ => rfl
  | hlen => exact readLocation_ifUnlocked <| by cases l' with
    | hlen => exact absurd rfl h
    | _ => rfl
  | gcpar => exact readLocation_ifUnlocked <| by cases l' with
    | gcpar => exact absurd rfl h
    | _ => rfl
  | p i => exact readLocation_ifUnlocked <| by cases l' with
    | p j => exact readLimb_writeLimb_ne (mt (congrArg _) h)
    | _ => rfl
  | a i => exact readLocation_ifUnlocked <| by cases l' with
    | a j => exact readLimb_writeLimb_ne (mt (congrArg _) h)
    | _ => rfl
  | b i => exact readLocation_ifUnlocked <| by cases l' with
    | b j => exact readLimb_writeLimb_ne (mt (congrArg _) h)
    | _ => rfl
  | n i => exact readLocation_ifUnlocked <| by cases l' with
    | n j => exact readLimb_writeLimb_ne (mt (congrArg _) h)
    | _ => rfl
  | gcx i => exact readLocation_ifUnlocked <| by cases l' with
    | gcx j => exact readLimb_writeLimb_ne (mt (congrArg _) h)
    | _ => rfl
  | s k i => cases l' with
    | s m j =>
      refine getElem_set_congr (readLimb s.build.nlimb · j) fun hk => ?_
      subst hk
      exact readLimb_writeLimb_ne (mt (congrArg _) h)
    | _ => rfl
  | ptX k i =>
    exact readLocation_congr_pt (fun j he => readLimb_writeLimb_ne fun hi => h (by rw [he, hi])) (fun _ _ => rfl)
      fun _ => rfl
  | ptY k i =>
    exact readLocation_congr_pt (fun _ _ => rfl) (fun j he => readLimb_writeLimb_ne fun hi => h (by rw [he, hi]))
      fun _ => rfl
  | ptFlags k => exact readLocation_congr_pt (fun _ _ => rfl) (fun _ _ => rfl) fun he => absurd he.symm h
  | sigr i => cases l' with
    | sigr j => exact readLimb_writeLimb_ne (mt (congrArg _) h)
    | _ => rfl
  | sigs i => cases l' with
    | sigs j => exact readLimb_writeLimb_ne (mt (congrArg _) h)
    | _ => rfl
  | h k =>
    exact readLocation_congr_h fun m he => readLanes_writeLanes_ne _ v fun hk => h (he ▸ congrArg _ (Fin.ext hk))
  | sig k =>
    exact readLocation_congr_sig fun m he => readLanes_writeLanes_ne _ v fun hk => h (he ▸ congrArg _ (Fin.ext hk))

theorem State.writeLocation_d_of_ne (s : State) (v : BusWord) {l : Location} (h : ∀ i, l ≠ .d i) :
    (s.writeLocation v l).d = s.d := by
  have hu : ∀ s' : State, s'.d = s.d → (s.ifUnlocked s').d = s.d := by
    intro s' hd
    rcases s.ifUnlocked_cases s' with ⟨-, he⟩ | ⟨-, he⟩ <;> rw [he]
    exact hd
  cases l with
  | d i => exact absurd rfl (h i)
  | hlen | gcpar | p | a | b | n | gcx => exact hu _ rfl
  | _ => rfl

/-! ### What each command writes (R30) -/

section

variable {i : Instr} {s t : State}

/-- No command writes the build, `CTRL`, the parameters or the host's side. -/
theorem Effect.keeps_parameters (h : Effect i s (.next t)) :
    t.build = s.build ∧ t.ctrlIe = s.ctrlIe ∧ t.hlen = s.hlen ∧ t.gcpar = s.gcpar ∧ t.p = s.p ∧ t.a = s.a ∧
    t.b = s.b ∧ t.n = s.n ∧ t.gcx = s.gcx ∧ t.host = s.host ∧ t.responses = s.responses := by
  cases h <;> exact ⟨rfl, rfl, rfl, rfl, rfl, rfl, rfl, rfl, rfl, rfl, rfl⟩

/-- `G`, `NBITS` and `LOCKED` are written by `INIT` alone, on an unlocked core. -/
theorem Effect.keeps_lock (h : Effect i s (.next t)) :
    (t.g = s.g ∧ t.nbits = s.nbits ∧ t.status.locked = s.status.locked) ∨
    (i = .init ∧ s.status.locked = false) := by
  cases h with
  | locked y port hi hl hc hy => exact .inr ⟨hi, hl⟩
  | _ => exact .inl ⟨rfl, rfl, rfl⟩

theorem Effect.keeps_d (h : Effect i s (.next t)) : t.d = s.d ∨ i = .zeroize ∨ ∃ bits, i = .keygen bits := by
  cases h with
  | zeroized hi => exact .inr (.inl hi)
  | key bits u port hi => exact .inr (.inr ⟨bits, hi⟩)
  | _ => exact .inl rfl

theorem Effect.keeps_h (h : Effect i s (.next t)) : t.h = s.h ∨ i = .zeroize := by
  cases h with
  | zeroized hi => exact .inr hi
  | _ => exact .inl rfl

theorem Effect.keeps_sig (h : Effect i s (.next t)) :
    (t.sig = s.sig ∧ t.siglen = s.siglen) ∨ i = .zeroize ∨ i = .sign ∨ i = .sigenc := by
  cases h with
  | zeroized hi => exact .inr (.inl hi)
  | signed r sv port hi => exact .inr (.inr (.inl hi))
  | encoded hi => exact .inr (.inr (.inr hi))
  | _ => exact .inl ⟨rfl, rfl⟩

theorem Effect.keeps_signature (h : Effect i s (.next t)) :
    (t.sigr = s.sigr ∧ t.sigs = s.sigs) ∨ i = .zeroize ∨ i = .sign ∨ i = .sigdec := by
  cases h with
  | zeroized hi => exact .inr (.inl hi)
  | signed r sv port hi => exact .inr (.inr (.inl hi))
  | decoded r sv hi => exact .inr (.inr (.inr hi))
  | _ => exact .inl ⟨rfl, rfl⟩

theorem Effect.keeps_sreg (h : Effect i s (.next t)) (k : Fin 8) :
    t.sreg[k] = s.sreg[k] ∨ i = .zeroize ∨ scalarDest i = some k := by
  cases h with
  | zeroized hi => exact .inr (.inl hi)
  | scalar rd v m port hp hd => exact (getElem_set_eq_or k).imp_right fun (he : rd = k) => .inr (he ▸ hd)
  | _ => exact .inl rfl

theorem Effect.keeps_pt (h : Effect i s (.next t)) (j : Fin 4) :
    t.pt[j] = s.pt[j] ∨ i = .zeroize ∨ pointDest i = some j := by
  cases h with
  | zeroized hi => exact .inr (.inl hi)
  | point rd q port hp hd => exact (getElem_set_eq_or j).imp_right fun (he : rd = j) => .inr (he ▸ hd)
  | _ => exact .inl rfl

theorem Effect.keeps_port (h : Effect i s (.next t)) : t.port = s.port ∨ takesDraws i = true := by
  cases h with
  | raised e port hp | scalar rd v m port hp | point rd q port hp => exact hp
  | locked y port hi | key bits u port hi | signed r sv port hi => exact .inr (hi ▸ rfl)
  | _ => exact .inl rfl

end

theorem takesDraws_cases {i : Instr} (h : takesDraws i = true) :
    i = .init ∨ i = .sign ∨ (∃ bits, i = .keygen bits) ∨ (∃ rd ra m, i = .modsqrt rd ra m) ∨
      ∃ rd ra par, i = .pdecomp rd ra par := by
  cases i with
  | init | sign | keygen | modsqrt | pdecomp => simp
  | _ => cases h

/-! ### The domain of a locked core (R42, R51) -/

/-- `LOCKED`, the parameters, `G` and `NBITS` of `t` are those of `s`. -/
def DomainKept (s t : State) : Prop :=
  t.status.locked = s.status.locked ∧ t.p = s.p ∧ t.a = s.a ∧ t.b = s.b ∧ t.n = s.n ∧ t.gcpar = s.gcpar ∧
  t.gcx = s.gcx ∧ t.hlen = s.hlen ∧ t.g = s.g ∧ t.nbits = s.nbits

theorem DomainKept.refl (s : State) : DomainKept s s := ⟨rfl, rfl, rfl, rfl, rfl, rfl, rfl, rfl, rfl, rfl⟩

theorem Effect.domainKept {i : Instr} {s t : State} (h : Effect i s (.next t)) (hl : s.status.locked = true) :
    DomainKept s t := by
  obtain ⟨-, -, hhlen, hgcpar, hp, ha, hb, hn, hgcx, -⟩ := h.keeps_parameters
  obtain ⟨hg, hnbits, hlocked⟩ := h.keeps_lock.resolve_right fun ⟨_, hu⟩ => by simp [hl] at hu
  exact ⟨hlocked, hp, ha, hb, hn, hgcpar, hgcx, hhlen, hg, hnbits⟩

theorem runCommand_domainKept {w : BusWord} {s t : State} (hl : s.status.locked = true)
    (h : runCommand w s = .next t) : DomainKept s t := by
  unfold runCommand at h
  split at h
  · next i _ => exact (h ▸ exec_effect i s).domainKept hl
  · cases h
    exact .refl s

theorem State.memWrite_domainKept {s : State} (hl : s.status.locked = true) (off : Nat) (v : BusWord) :
    DomainKept s (s.memWrite off v) := by
  obtain ⟨hp, ha, hb, hn, hgcx, hgcpar, hhlen⟩ := memWrite_domain_of_locked hl off v
  obtain ⟨-, -, -, -, hg, hnbits, hlocked⟩ := s.memWrite_environment off v
  exact ⟨hlocked, hp, ha, hb, hn, hgcpar, hgcx, hhlen, hg, hnbits⟩

/-- Only the reset input asks for a reset. -/
theorem State.head?_of_nextAction_reset {s : State} (h : s.nextAction = .reset) : s.host.head? = some .reset := by
  cases hh : s.host with
  | nil =>
    rw [nextAction_nil hh] at h
    cases h
  | cons ev rest =>
    rw [nextAction_cons hh] at h
    cases ev with
    | reset => rfl
    | read | write =>
      simp only [State.actionOf] at h
      split_ifs at h

theorem step_domainKept {s t : State} (hl : s.status.locked = true) (h : step s = .next t)
    (hr : s.host.head? ≠ some .reset) : DomainKept s t := by
  rcases step_next_cases h with
    ⟨w, u, -, hu, rfl⟩ | ⟨-, rfl⟩ | ⟨ha, -⟩ | ⟨-, rfl⟩ | ⟨off, -, rfl⟩ | ⟨off, v, -, rfl⟩
  · exact (runCommand_domainKept hl hu : DomainKept s u)
  · exact .refl _
  · exact absurd (State.head?_of_nextAction_reset ha) hr
  · exact .refl s
  · exact .refl s
  · exact State.memWrite_domainKept hl off v

/-! ### `STATUS` (R48) -/

/-- The value of two fields put together. -/
theorem toNat_append_eq_add {m k : Nat} (x : BitVec m) (y : BitVec k) : (x ++ y).toNat = x.toNat * 2 ^ k + y.toNat := by
  rw [BitVec.toNat_append, ← Nat.shiftLeft_add_eq_or_of_lt y.isLt, Nat.shiftLeft_eq]

theorem Status.word_toNat (st : Status) : st.word.toNat =
    (if st.done then 1 else 0) + (if st.valid then 2 else 0) + (if st.locked then 4 else 0) +
    256 * st.err.toNat + 65536 * st.errInfo.toNat := by
  have hbit : ∀ (b : Bool) (k : Nat), (if b then k else 0) = k * b.toNat := fun b k => by cases b <;> simp
  simp only [Status.word, toNat_append_eq_add, BitVec.toNat_ofBool, hbit, Bool.toNat_false, BitVec.ofNat_eq_ofNat,
    BitVec.toNat_ofNat, Nat.zero_mod]
  omega

theorem Status.hostWrite_eq (st : Status) (v : BusWord) :
    st.hostWrite v = { st with done := st.done && !v.getLsbD 0 } := by
  unfold Status.hostWrite
  split
  · next h => rw [h, Bool.not_true, Bool.and_false]
  · next h => rw [Bool.eq_false_of_not_eq_true h, Bool.not_false, Bool.and_true]

/-! ### Reset (R52, R250) -/

theorem step_of_reset {s : State} {rest : List HostEvent} (h : s.host = .reset :: rest) :
    step s = .next { State.resetOf s.build with port := s.port, host := rest, responses := s.responses } := by
  have ha : s.nextAction = .reset := State.nextAction_cons h
  rw [step_of_serve (by simp [ha]), ha]
  simp [State.serve, State.resetCore, State.dropEvent, h]

end Sys2Proof.Machine

namespace Sys2Proof.Claims

open Sys2Proof Sys2Proof.Machine

/-! ### The registers, settled -/

/-- Settles O17: distinct word offsets stand at distinct locations, or at reserved ones, which no write changes. -/
theorem windowWriteLeavesOtherWords : Obligations.WindowWriteLeavesOtherWords := by
  intro s v off off' hlt hlt' h4 h4' hne
  have hoff : ∀ i : Fin 8, locate off = .d i → off = 0x0E0 + 4 * i.val := fun i hl => by
    have ho := (offsetOf_locate hlt h4).resolve_left (by simp [hl])
    rw [← ho, hl, offsetOf]
  refine ⟨?_, fun hout => s.writeLocation_d_of_ne v fun i hl => ?_, fun i hi hlimb => ?_⟩
  · by_cases hl : locate off = locate off'
    · have hr : locate off = .reserved := by_contra fun hr => hne (locate_injective hlt hlt' h4 h4' hl hr)
      rw [State.memWrite, hr]
      rfl
    · exact s.readLocation_writeLocation_ne v hl
  · have := hoff i hl
    omega
  · by_cases hd : ∃ k, locate off = .d k
    · obtain ⟨k, hk⟩ := hd
      have hki : k ≠ ⟨i, hi⟩ := by
        rintro rfl
        exact hlimb (hoff _ hk)
      rw [State.memWrite, hk]
      exact extractLsb'_writeLimb_ne hki
    · rw [State.memWrite, s.writeLocation_d_of_ne v (not_exists.mp hd)]

/-- Settles O18, from the address map: what stands at the named offsets, and which locations no write changes. -/
theorem fixedAndReservedWords : Obligations.FixedAndReservedWords := by
  intro s v off h4
  refine ⟨⟨rfl, rfl, rfl, rfl, rfl, fun i hi => ⟨?_, ?_, ?_⟩, ?_⟩, fun h => ?_, fun h => ?_,
    fun hl => s.memWrite_of_locked_parameter hl v h4⟩
  · rw [State.memRead, locate_d ⟨i, hi⟩, State.readLocation]
  · rw [State.memRead, locate_gX ⟨i, hi⟩]
    rfl
  · rw [State.memRead, locate_gY ⟨i, hi⟩]
    rfl
  · exact toNat_flagWord s.g.inf
  · rw [State.memRead, State.memWrite, locate_of_no_register h4 h]
    exact ⟨rfl, rfl⟩
  · rcases h with rfl | rfl | rfl | rfl | ⟨hlo, hhi⟩
    · rfl
    · rfl
    · rfl
    · rfl
    · exact s.memWrite_generator v h4 hlo hhi

/-- Settles O23: each register is written by the effects of the commands that R30 names. -/
theorem commandWriteSets : Obligations.CommandWriteSets := by
  intro i s t h
  have heff : Effect i s (.next t) := h ▸ exec_effect i s
  refine ⟨heff.keeps_parameters, fun hc => ?_, heff.keeps_d.resolve_left, heff.keeps_h.resolve_left, fun hc => ?_,
    fun hc => ?_, fun k => (heff.keeps_sreg k).resolve_left, fun j => (heff.keeps_pt j).resolve_left,
    fun hc => takesDraws_cases (heff.keeps_port.resolve_left hc)⟩
  · exact (heff.keeps_lock.resolve_left (by tauto)).1
  · exact heff.keeps_sig.resolve_left (by tauto)
  · exact heff.keeps_signature.resolve_left (by tauto)

/-- Settles O59: of the events only a reset ends the lock, and `INIT` leaves a locked core's domain. -/
theorem domainFrozenUntilReset : Obligations.DomainFrozenUntilReset := by
  intro s t hl h hr
  obtain ⟨hlocked, hrest⟩ := step_domainKept hl h hr
  exact ⟨hlocked.trans hl, hrest⟩

/-- Settles O14: a reset is `resetOf` the build, whose registers have R52's values. -/
theorem resetGivesR52Values : Obligations.ResetGivesR52Values := by
  refine ⟨fun s rest h => ⟨_, step_of_reset h, rfl, rfl, rfl, rfl, rfl⟩,
    fun b => ⟨?_, Build.reference, rfl, by decide⟩⟩
  have hctrl : flagWord false = 0 := by decide
  have hstatus : Status.word { done := false, valid := false, locked := false, err := 0, errInfo := 0 } = 0 := by
    decide
  refine ⟨hctrl, hstatus, rfl, rfl, rfl, rfl, rfl, rfl, rfl, rfl, rfl, rfl, rfl, rfl, rfl, fun i => ?_,
    fun j => ?_, rfl, fun k => ?_, fun k => ?_⟩
  · exact Vector.getElem_replicate i.isLt
  · exact Vector.getElem_replicate j.isLt
  · exact Vector.getElem_replicate k.isLt
  · exact Vector.getElem_replicate k.isLt

/-- Settles O15: the fields of `STATUS` add up to its word, and bit 0 of a write clears `DONE`. -/
theorem statusLayout : Obligations.StatusLayout := by
  intro s v
  have hw : s.memWrite 0x008 v = { s with status := { s.status with done := s.status.done && !v.getLsbD 0 } } :=
    congrArg (fun st => ({ s with status := st } : State)) (s.status.hostWrite_eq v)
  refine ⟨s.status.word_toNat, hw, rfl, ?_, rfl⟩
  rw [hw]
  exact (Bool.and_assoc ..).symm

/-- Settles O19: what a location reads does not mention `D`. -/
theorem hostReadsRevealNothingOfD : Obligations.HostReadsRevealNothingOfD := by
  intro s d' off
  unfold State.memRead
  cases locate off <;> rfl

/-- Settles O56: zeros fit every width, and a core just reset is unlocked with the identity for `G`. -/
theorem resetMeetsInvariant : Obligations.ResetMeetsInvariant := fun _ => resetOf_inv

end Sys2Proof.Claims

/-!
SUPPORT. Proofs about the host's accesses: how the core answers each, what a host that keeps to the window can
meet, and what a word of the window shows and keeps.
-/

namespace Sys2Proof.Machine

open Sys2Proof Sys2Proof.Claims

/-! ### The answer to one access (R76, R80, R81) -/

/-- An answered access is gone and its answer stands at the head of the host's observations. -/
theorem State.answer_of_host {s : State} {ev : HostEvent} {rest : List HostEvent} (h : s.host = ev :: rest)
    (r : Response) : s.answer r = { s with host := rest, responses := r :: s.responses } := by
  rw [State.answer, h, List.tail_cons]

/-- A step at an event that is no command serves its action. -/
theorem step_of_host {s : State} {ev : HostEvent} {rest : List HostEvent} {act : Action} (h : s.host = ev :: rest)
    (ha : s.actionOf ev = act) (hc : ∀ w, act ≠ .command w) : step s = s.serve act := by
  subst ha
  rw [← State.nextAction_cons h] at hc ⊢
  exact step_of_serve hc

theorem State.inWindow_iff (s : State) (addr : Nat) :
    s.inWindow addr = true ↔ s.build.base ≤ addr ∧ addr < s.build.base + 0x800 :=
  decide_eq_true_iff

theorem accepted_iff (addr width : Nat) : accepted addr width = true ↔ width = 4 ∧ addr % 4 = 0 :=
  decide_eq_true_iff

/-- A read or a write in the window of the wrong width or alignment is refused (R76). -/
theorem State.actionOf_refused {s : State} {addr width : Nat} (hw : s.inWindow addr = true)
    (ha : width ≠ 4 ∨ addr % 4 ≠ 0) :
    s.actionOf (.read addr width) = .refused ∧ ∀ v, s.actionOf (.write addr width v) = .refused := by
  have hrej : ¬ accepted addr width = true := by
    rw [accepted_iff]
    omega
  simp [State.actionOf, hw, hrej]

/-- A command write is a word write to `CMD` (R80). -/
theorem State.eq_write_of_actionOf_command {s : State} {ev : HostEvent} {w : BusWord}
    (h : s.actionOf ev = .command w) : ev = .write (s.build.base + 0x00C) 4 w := by
  cases ev with
  | reset => cases h
  | read addr width =>
    simp only [State.actionOf] at h
    split_ifs at h
  | write addr width v =>
    simp only [State.actionOf] at h
    split_ifs at h with hw ha hc
    cases h
    obtain ⟨rfl, -⟩ := (accepted_iff addr width).mp ha
    obtain ⟨hlo, -⟩ := (s.inWindow_iff addr).mp hw
    have haddr : addr = s.build.base + 0x00C := by
      rw [cmdOffset] at hc
      omega
    rw [haddr]

/-- An action other than waiting is that of the oldest event. -/
theorem State.exists_event_of_nextAction {s : State} {act : Action} (h : s.nextAction = act) (hne : act ≠ .idle) :
    ∃ ev rest, s.host = ev :: rest ∧ s.actionOf ev = act := by
  cases hh : s.host with
  | nil => exact absurd (h.symm.trans (nextAction_nil hh)) hne
  | cons ev rest => exact ⟨ev, rest, rfl, (nextAction_cons hh).symm.trans h⟩

/-- No event of the window is an access outside it. -/
theorem State.actionOf_ne_outside {s : State} {ev : HostEvent} (h : s.eventInWindow ev = true) (addr : Nat) :
    s.actionOf ev ≠ .outside addr := by
  intro ho
  cases ev with
  | reset => cases ho
  | read a width | write a width v =>
    have hw : s.inWindow a = true := h
    simp only [State.actionOf, hw, not_true_eq_false, if_false] at ho
    split_ifs at ho

/-! ### What a step leaves of the host's events, and where it stops (R28, R70) -/

/-- A command leaves the build and the host's events. -/
theorem runCommand_environment {w : BusWord} {s t : State} (h : runCommand w s = .next t) :
    t.build = s.build ∧ t.host = s.host := by
  unfold runCommand at h
  split at h
  · next i _ =>
    obtain ⟨hb, -, -, -, -, -, -, -, -, hh, -⟩ := (h ▸ exec_effect i s : Effect i s (.next t)).keeps_parameters
    exact ⟨hb, hh⟩
  · cases h
    exact ⟨rfl, rfl⟩

/-- A step keeps the build, and removes at most the oldest of the host's events. -/
theorem step_environment {s t : State} (h : step s = .next t) : t.build = s.build ∧ t.host <:+ s.host := by
  have htail := List.tail_suffix s.host
  rcases step_next_cases h with ⟨w, u, -, hu, rfl⟩ | ⟨-, rfl⟩ | ⟨-, rfl⟩ | ⟨-, rfl⟩ | ⟨off, -, rfl⟩ | ⟨off, v, -, rfl⟩
  · obtain ⟨hb, hh⟩ := runCommand_environment hu
    rw [← hh] at htail ⊢
    exact ⟨hb, htail⟩
  · exact ⟨rfl, List.suffix_refl _⟩
  · exact ⟨rfl, htail⟩
  · exact ⟨rfl, htail⟩
  · exact ⟨rfl, htail⟩
  · obtain ⟨hb, -, hh, -⟩ := s.memWrite_environment off v
    rw [← hh] at htail ⊢
    exact ⟨hb, htail⟩

theorem State.eventInWindow_congr {s t : State} (h : t.build = s.build) (ev : HostEvent) :
    t.eventInWindow ev = s.eventInWindow ev := by
  cases ev <;> simp only [State.eventInWindow, State.inWindow, h]

/-- A host that keeps to the window goes on keeping to it. -/
theorem step_keeps_hostInWindow {s t : State} (hw : s.HostInWindow) (h : step s = .next t) : t.HostInWindow := by
  obtain ⟨hb, hh⟩ := step_environment h
  intro ev hev
  rw [State.eventInWindow_congr hb]
  exact hw ev (hh.subset hev)

theorem runCommand_of_decode {w : BusWord} {i : Instr} (h : decode w = .ok i) (s : State) :
    runCommand w s = exec i s := by
  rw [runCommand, h]

/-- A command word whose run has no next state is `KEYGEN` or `SIGN` in its endless loop (R28). -/
theorem runCommand_of_not_next {w : BusWord} {s : State} (h : ∀ t, runCommand w s ≠ .next t) :
    runCommand w s = .fault .endlessRetry ∧ (decode w = .ok .sign ∨ ∃ bits, decode w = .ok (.keygen bits)) := by
  cases hd : decode w with
  | error e => exact absurd (by rw [runCommand, hd]) (h (s.raise (illegalCommand e.info)))
  | ok i =>
    rw [runCommand_of_decode hd] at h ⊢
    obtain ⟨hf, -, ⟨rfl, -⟩ | ⟨bits, rfl, -⟩⟩ := unfinished_of_not_next h
    · exact ⟨hf, .inl rfl⟩
    · exact ⟨hf, .inr ⟨bits, rfl⟩⟩

/-- The two stops of a step: an access outside the window, and a command in its endless loop. -/
theorem step_of_not_next {s : State} (h : ∀ t, step s ≠ .next t) :
    (∃ addr, s.nextAction = .outside addr) ∨
    ∃ w, s.nextAction = .command w ∧ step s = .fault .endlessRetry ∧
      (decode w = .ok .sign ∨ ∃ bits, decode w = .ok (.keygen bits)) := by
  cases ha : s.nextAction with
  | outside addr => exact .inl ⟨addr, rfl⟩
  | command w =>
    rw [step_of_command ha] at h ⊢
    obtain ⟨hf, hd⟩ := runCommand_of_not_next (w := w) (s := s) fun t ht => h (t.answer .ack) (by rw [ht]; rfl)
    exact .inr ⟨w, rfl, by rw [hf]; rfl, hd⟩
  | _ => exact absurd (by rw [step_of_serve (by simp [ha]), ha]; rfl) (h _)

/-! ### What a word of the window shows (R73, R74) -/

/-- The value of four joined bytes. -/
theorem joinLanes_toNat (b0 b1 b2 b3 : Byte) : (joinLanes b0 b1 b2 b3).toNat =
    b0.toNat + 2 ^ 8 * b1.toNat + 2 ^ 16 * b2.toNat + 2 ^ 24 * b3.toNat := by
  rw [joinLanes, toNat_append_eq_add, toNat_append_eq_add, toNat_append_eq_add]
  ring

theorem lane_toNat (v : BusWord) (j : Nat) : (lane v j).toNat = v.toNat / 2 ^ (8 * j) % 2 ^ 8 := by
  rw [lane, BitVec.extractLsb'_toNat, Nat.shiftRight_eq_div_pow]

/-- Each lane of four joined bytes is its byte. -/
theorem lane_joinLanes (b0 b1 b2 b3 : Byte) :
    lane (joinLanes b0 b1 b2 b3) 0 = b0 ∧ lane (joinLanes b0 b1 b2 b3) 1 = b1 ∧
    lane (joinLanes b0 b1 b2 b3) 2 = b2 ∧ lane (joinLanes b0 b1 b2 b3) 3 = b3 := by
  simp only [← BitVec.toNat_inj, lane_toNat, joinLanes_toNat]
  omega

/-- Byte `m` of a buffer stands in lane `m mod 4` of the buffer's word `m / 4`. -/
theorem lane_readLanes {len : Nat} (buf : Vector Byte len) (m : Fin len) :
    lane (readLanes buf (m.val / 4)) (m.val % 4) = buf[m] := by
  obtain ⟨h0, h1, h2, h3⟩ := lane_joinLanes (buf[4 * (m.val / 4)]?.getD 0) (buf[4 * (m.val / 4) + 1]?.getD 0)
    (buf[4 * (m.val / 4) + 2]?.getD 0) (buf[4 * (m.val / 4) + 3]?.getD 0)
  have hbyte : ∀ j, 4 * (m.val / 4) + j = m.val → buf[4 * (m.val / 4) + j]?.getD 0 = buf[m] := by
    intro j hj
    simp [hj]
  have hm : m.val % 4 = 0 ∨ m.val % 4 = 1 ∨ m.val % 4 = 2 ∨ m.val % 4 = 3 := by omega
  rcases hm with h | h | h | h <;> rw [h]
  · exact h0.trans (hbyte 0 (by omega))
  · exact h1.trans (hbyte 1 (by omega))
  · exact h2.trans (hbyte 2 (by omega))
  · exact h3.trans (hbyte 3 (by omega))

/-! ### What a word of the window reads after a write of it (R72 to R74) -/

/-- A limb just written reads as written, and 0 at and beyond `NLIMB`. -/
theorem readLimb_writeLimb_same (nlimb : Nat) (x : Word) (i : Fin 8) (v : BusWord) :
    readLimb nlimb (writeLimb nlimb x i v) i = if i.val < nlimb then v else 0 := by
  split
  · next hi => exact readLimb_writeLimb hi
  · next hi => rw [readLimb, if_neg hi]

/-- A register of one bit keeps bit 0 of a written word. -/
theorem flagWord_getLsbD_zero (v : BusWord) : flagWord (v.getLsbD 0) = v &&& 1 := by
  refine BitVec.eq_of_toNat_eq ?_
  have hmask : (v &&& 1).toNat = v.toNat % 2 := Nat.and_one_is_mod v.toNat
  rw [toNat_flagWord, hmask, BitVec.getLsbD, Nat.testBit_zero]
  rcases Nat.mod_two_eq_zero_or_one v.toNat with h | h <;> simp [h]

/-- A register of one byte keeps the low byte of a written word. -/
theorem setWidth_setWidth_eq_and (v : BusWord) : (v.setWidth 8).setWidth 32 = v &&& 0xFF := by
  refine BitVec.eq_of_toNat_eq ?_
  have hmask : (v &&& 0xFF).toNat = v.toNat % 2 ^ 8 := Nat.and_two_pow_sub_one_eq_mod v.toNat 8
  rw [hmask, BitVec.toNat_setWidth_of_le (by decide), BitVec.toNat_setWidth]

/-- What a location reads after a host write of `v` to it (R51, R72 to R74); none where the write does not
decide it: read-only and reserved locations, `STATUS`, the key, and the parameters of a locked core. -/
def Location.readBack (nlimb : Nat) (locked : Bool) (v : BusWord) : Location → Option BusWord
  | .ctrl | .ptFlags _ => some (v &&& 1)
  | .siglen | .h _ | .sig _ => some v
  | .s _ i | .ptX _ i | .ptY _ i | .sigr i | .sigs i => some (if i.val < nlimb then v else 0)
  | .hlen => if locked then none else some v
  | .gcpar => if locked then none else some (v &&& 0xFF)
  | .p i | .a i | .b i | .n i | .gcx i => if locked then none else some (if i.val < nlimb then v else 0)
  | .id | .status | .cmd | .cfgw | .nbits | .drawlim | .d _ | .gX _ | .gY _ | .gFlags | .reserved => none

theorem State.readLocation_writeLocation_same {s : State} {v u : BusWord} {l : Location}
    (h : l.readBack s.build.nlimb s.status.locked v = some u) : (s.writeLocation v l).readLocation l = u := by
  cases l with
  | ctrl =>
    cases h
    exact flagWord_getLsbD_zero v
  | siglen =>
    cases h
    rfl
  | h k =>
    cases h
    exact readLanes_writeLanes _ _ v (by omega)
  | sig k =>
    cases h
    exact readLanes_writeLanes _ _ v (by omega)
  | sigr i | sigs i =>
    cases h
    exact readLimb_writeLimb_same ..
  | s k i =>
    cases h
    exact (congrArg (readLimb s.build.nlimb · i) (Vector.getElem_set_self k.isLt)).trans (readLimb_writeLimb_same ..)
  | ptX j i =>
    cases h
    exact (congrArg (fun q : PointReg => readLimb s.build.nlimb q.x i) (Vector.getElem_set_self j.isLt)).trans
      (readLimb_writeLimb_same ..)
  | ptY j i =>
    cases h
    exact (congrArg (fun q : PointReg => readLimb s.build.nlimb q.y i) (Vector.getElem_set_self j.isLt)).trans
      (readLimb_writeLimb_same ..)
  | ptFlags j =>
    cases h
    exact (congrArg (fun q : PointReg => flagWord q.inf) (Vector.getElem_set_self j.isLt)).trans
      (flagWord_getLsbD_zero v)
  | hlen =>
    obtain ⟨hl, ⟨⟩⟩ := Option.ite_none_left_eq_some.mp h
    rw [State.writeLocation, ifUnlocked, if_neg hl]
    rfl
  | gcpar =>
    obtain ⟨hl, ⟨⟩⟩ := Option.ite_none_left_eq_some.mp h
    rw [State.writeLocation, ifUnlocked, if_neg hl]
    exact setWidth_setWidth_eq_and v
  | p i | a i | b i | n i | gcx i =>
    obtain ⟨hl, ⟨⟩⟩ := Option.ite_none_left_eq_some.mp h
    rw [State.writeLocation, ifUnlocked, if_neg hl]
    exact readLimb_writeLimb_same ..
  | _ => cases h

/-- A read after a write at one offset, by the location that stands there. -/
theorem State.memRead_memWrite_same {s : State} {v u : BusWord} {off : Nat} {l : Location} (hl : locate off = l)
    (h : l.readBack s.build.nlimb s.status.locked v = some u) : (s.memWrite off v).memRead off = u := by
  rw [State.memRead, State.memWrite, hl, readLocation_writeLocation_same h]

/-- A limb of the key holds what was written, though no read shows it (R43). -/
theorem State.memWrite_key_limb {s : State} {i : Fin 8} (hi : i.val < s.build.nlimb) (v : BusWord) :
    (s.memWrite (0x0E0 + 4 * i.val) v).d.extractLsb' (32 * i.val) 32 = v := by
  rw [State.memWrite, locate_d i]
  exact (if_pos hi).symm.trans (readLimb_writeLimb hi)

end Sys2Proof.Machine

namespace Sys2Proof.Claims

open Sys2Proof Sys2Proof.Machine

/-! ### The host's accesses, settled -/

/-- Settles O16: the address map names the location at each offset, and a location reads the word it stores. -/
theorem windowReadAfterWrite : Obligations.WindowReadAfterWrite := by
  intro s v i hi
  refine ⟨⟨congrArg s.readLocation (locate_p ⟨i, hi⟩), congrArg s.readLocation (locate_a ⟨i, hi⟩),
      congrArg s.readLocation (locate_b ⟨i, hi⟩), congrArg s.readLocation (locate_n ⟨i, hi⟩),
      congrArg s.readLocation (locate_gcx ⟨i, hi⟩), fun k => congrArg s.readLocation (locate_s k ⟨i, hi⟩),
      fun j => ⟨congrArg s.readLocation (locate_ptX j ⟨i, hi⟩), congrArg s.readLocation (locate_ptY j ⟨i, hi⟩), ?_⟩,
      congrArg s.readLocation (locate_sigr ⟨i, hi⟩), congrArg s.readLocation (locate_sigs ⟨i, hi⟩)⟩,
    fun k => ?_, fun k => ?_, toNat_flagWord s.ctrlIe, rfl, rfl, ?_,
    ⟨fun k hk => ?_, fun j hj => ?_, fun j hj => ?_, ?_, ?_, fun hl => ?_, fun hlimb => ?_⟩,
    fun j hj => ?_, fun k hk => ?_, fun k hk => ?_, rfl, flagWord_getLsbD_zero v, fun hl => ⟨?_, ?_⟩⟩
  · rw [State.memRead, locate_ptFlags j]
    exact toNat_flagWord _
  · rw [State.memRead, locate_h ⟨k.val / 4, by omega⟩]
    exact lane_readLanes s.h k
  · rw [State.memRead, locate_sig ⟨k.val / 4, by omega⟩]
    exact lane_readLanes s.sig k
  · exact BitVec.toNat_setWidth_of_le (by decide)
  · exact State.memRead_memWrite_same (locate_s ⟨k, hk⟩ ⟨i, hi⟩) rfl
  · exact State.memRead_memWrite_same (locate_ptX ⟨j, hj⟩ ⟨i, hi⟩) rfl
  · exact State.memRead_memWrite_same (locate_ptY ⟨j, hj⟩ ⟨i, hi⟩) rfl
  · exact State.memRead_memWrite_same (locate_sigr ⟨i, hi⟩) rfl
  · exact State.memRead_memWrite_same (locate_sigs ⟨i, hi⟩) rfl
  · simp only [List.forall_mem_cons]
    exact ⟨State.memRead_memWrite_same (locate_p ⟨i, hi⟩) (hl ▸ rfl),
      State.memRead_memWrite_same (locate_a ⟨i, hi⟩) (hl ▸ rfl),
      State.memRead_memWrite_same (locate_b ⟨i, hi⟩) (hl ▸ rfl),
      State.memRead_memWrite_same (locate_n ⟨i, hi⟩) (hl ▸ rfl),
      State.memRead_memWrite_same (locate_gcx ⟨i, hi⟩) (hl ▸ rfl), List.forall_mem_nil _⟩
  · exact State.memWrite_key_limb (i := ⟨i, hi⟩) hlimb v
  · exact State.memRead_memWrite_same (locate_ptFlags ⟨j, hj⟩) rfl
  · exact State.memRead_memWrite_same (locate_h ⟨k, hk⟩) rfl
  · exact State.memRead_memWrite_same (locate_sig ⟨k, hk⟩) rfl
  · exact State.memRead_memWrite_same (l := .hlen) rfl (hl ▸ rfl)
  · exact State.memRead_memWrite_same (l := .gcpar) rfl (hl ▸ rfl)

/-- Settles O60: of the two stops of a step, an access outside the window is none of this host's. -/
theorem hostInWindowStopsOnlyOnHang : Obligations.HostInWindowStopsOnlyOnHang := by
  intro s hw
  refine or_iff_not_imp_left.mpr fun hn => ?_
  have hstop : ∀ t, step s ≠ .next t := fun t ht =>
    hn ⟨t, ht, step_keeps_hostInWindow hw ht, (step_environment ht).1⟩
  rcases step_of_not_next hstop with ⟨addr, ha⟩ | ⟨w, ha, hf, hd⟩
  · obtain ⟨ev, rest, hh, hact⟩ := State.exists_event_of_nextAction ha (by simp)
    exact absurd hact (State.actionOf_ne_outside (hw ev (by simp [hh])) addr)
  · obtain ⟨ev, rest, hh, hact⟩ := State.exists_event_of_nextAction ha (by simp)
    exact ⟨hf, w, rest, by rw [hh, State.eq_write_of_actionOf_command hact], hd⟩

/-- Settles O10: the write asks for the command, and the end of the access adds the acknowledge alone. -/
theorem stepRunsDecodedCommand : Obligations.StepRunsDecodedCommand := by
  intro s w rest i hh hb hd
  have ha : s.nextAction = .command w := (State.nextAction_cons hh).trans (State.actionOf_command hb)
  rw [step_of_command ha, runCommand_of_decode hd]
  cases exec i s <;> rfl

/-- Settles O12: such an access is refused, which only answers it. -/
theorem refusedAccessOnlyAnswersBusError : Obligations.RefusedAccessOnlyAnswersBusError := by
  intro s addr width v ev rest hh hev hlo hhi hbad
  obtain ⟨hread, hwrite⟩ := State.actionOf_refused ((s.inWindow_iff addr).mpr ⟨hlo, hhi⟩) hbad
  have ha : s.actionOf ev = .refused := by
    rcases hev with rfl | rfl
    · exact hread
    · exact hwrite v
  rw [step_of_host hh ha (by simp), State.serve, State.answer_of_host hh]

/-- Settles O13: an accepted access is answered, a write after storing, which leaves the build, the port and
the host's side. -/
theorem hostAccessIsServed : Obligations.HostAccessIsServed := by
  intro s off v rest hb hlt h4
  refine ⟨fun hh => ?_, fun hh hc => ?_⟩
  · rw [step_of_host hh (State.actionOf_read hb hlt h4) (by simp), State.serve, State.answer_of_host hh]
  · obtain ⟨hbuild, hport, hhost, hresp, -⟩ := s.memWrite_environment off v
    rw [step_of_host hh (State.actionOf_write hb hlt h4 hc) (by simp), State.serve,
      State.answer_of_host (hhost.trans hh), hresp]
    exact ⟨rfl, hbuild, hport⟩

end Sys2Proof.Claims

/-!
SUPPORT. Proofs about the command word and the two stages every command passes first: which words are commands, how
the decoder and the encoder undo each other, and what a refused word and the lock stage raise.
-/

namespace Sys2Proof

open Sys2Proof.Laws.TableRow

/-! ### A word and its five fields (R101) -/

theorem fieldRd_packWord (op : Byte) (rd ra rb : BitVec 4) (imm : BitVec 12) :
    fieldRd (packWord op rd ra rb imm) = rd := by
  apply BitVec.eq_of_getLsbD_eq
  intro k hk
  rw [fieldRd, BitVec.getLsbD_extractLsb', getLsbD_packWord, if_neg (by omega), if_pos (by omega),
    show 8 + k - 8 = k by omega]
  simp [hk]

theorem fieldImm_packWord (op : Byte) (rd ra rb : BitVec 4) (imm : BitVec 12) :
    fieldImm (packWord op rd ra rb imm) = imm := by
  apply BitVec.eq_of_getLsbD_eq
  intro k hk
  rw [fieldImm, BitVec.getLsbD_extractLsb', getLsbD_packWord, if_neg (by omega), if_neg (by omega),
    if_neg (by omega), if_neg (by omega), show 20 + k - 8 - 4 - 4 - 4 = k by omega]
  simp [hk]

/-- A word is made of its fields, so no bit of it lies outside them. -/
theorem packWord_fields (w : BusWord) :
    packWord (fieldOp w) (fieldRd w) (fieldRa w) (fieldRb w) (fieldImm w) = w := by
  apply BitVec.eq_of_getLsbD_eq
  intro k hk
  rw [getLsbD_packWord, fieldOp, fieldRd, fieldRa, fieldRb, fieldImm]
  simp only [BitVec.getLsbD_extractLsb']
  split_ifs
  all_goals
    rw [decide_eq_true (by omega), Bool.true_and]
    congr 1
    omega

theorem packWord_inj {op op' : Byte} {rd rd' ra ra' rb rb' : BitVec 4} {imm imm' : BitVec 12} :
    packWord op rd ra rb imm = packWord op' rd' ra' rb' imm' ↔
      op = op' ∧ rd = rd' ∧ ra = ra' ∧ rb = rb' ∧ imm = imm' := by
  refine ⟨fun h => ?_, fun ⟨h1, h2, h3, h4, h5⟩ => by rw [h1, h2, h3, h4, h5]⟩
  refine ⟨?_, ?_, ?_, ?_, ?_⟩
  · simpa only [fieldOp_packWord] using congrArg fieldOp h
  · simpa only [fieldRd_packWord] using congrArg fieldRd h
  · simpa only [fieldRa_packWord] using congrArg fieldRa h
  · simpa only [fieldRb_packWord] using congrArg fieldRb h
  · simpa only [fieldImm_packWord] using congrArg fieldImm h

/-- Comparing a masked word compares its masked fields. -/
theorem and_packWord_eq_iff (w : BusWord) (op op' : Byte) (rd rd' ra ra' rb rb' : BitVec 4) (imm imm' : BitVec 12) :
    w &&& packWord op rd ra rb imm = packWord op' rd' ra' rb' imm' ↔
      fieldOp w &&& op = op' ∧ fieldRd w &&& rd = rd' ∧ fieldRa w &&& ra = ra' ∧ fieldRb w &&& rb = rb' ∧
      fieldImm w &&& imm = imm' := by
  rw [← packWord_inj, ← packWord_and, packWord_fields]

/-! ### Opcodes (R103, R110) -/

theorem mnemonicOf_code (k : Mnemonic) : mnemonicOf k.code = some k := by
  cases k <;> rfl

theorem mnemonicOf_eq_some_iff (op : Byte) (k : Mnemonic) : mnemonicOf op = some k ↔ op = k.code := by
  constructor
  · exact fun h => (beq_iff_eq.mp (List.find?_some (p := fun k : Mnemonic => k.code == op) h)).symm
  · rintro rfl
    exact mnemonicOf_code k

/-- The unknown opcodes are those R110 lists. -/
theorem mnemonicOf_eq_none_iff (op : Byte) : mnemonicOf op = none ↔
    op.toNat = 0x00 ∨ (0x03 ≤ op.toNat ∧ op.toNat ≤ 0x0F) ∨ (0x19 ≤ op.toNat ∧ op.toNat ≤ 0x1F) ∨
    (0x24 ≤ op.toNat ∧ op.toNat ≤ 0x2F) ∨ 0x36 ≤ op.toNat := by
  simp only [mnemonicOf, Mnemonic.all, Mnemonic.code, List.find?_eq_none, List.forall_mem_cons, List.not_mem_nil,
    false_imp_iff, implies_true, and_true, beq_iff_eq, ← BitVec.toNat_inj, BitVec.ofNat_eq_ofNat, BitVec.toNat_ofNat]
  omega

theorem fieldOp_toNat (w : BusWord) : (fieldOp w).toNat = w.toNat % 256 := by
  rw [fieldOp, BitVec.extractLsb'_toNat, Nat.shiftRight_zero]

/-! ### The bits that must be zero, by format (R102, R104 to R106) -/

/-- The bits of `rd` that are 0 in every legal word of the format. -/
def Format.zeroRd : Format → BitVec 4
  | .z | .k | .v => 0xF
  | .f3 | .f2 => 0x8
  | .pd | .p3 | .p2 | .ps | .pk => 0xC

/-- The same for `ra`. -/
def Format.zeroRa : Format → BitVec 4
  | .z | .k | .pk => 0xF
  | .f3 | .f2 | .pd => 0x8
  | .p3 | .p2 | .ps | .v => 0

/-- The same for `rb`. -/
def Format.zeroRb : Format → BitVec 4
  | .z | .f2 | .pd | .p2 | .k | .pk | .v => 0xF
  | .f3 | .ps => 0x8
  | .p3 => 0

/-- The same for `imm12`. -/
def Format.zeroImm : Format → BitVec 12
  | .f3 | .f2 => 0xFFE
  | .pd => 0xF00
  | .k => 0
  | .z | .p3 | .p2 | .ps | .pk | .v => 0xFFF

/-- The fields of the word have zeros where the format has them. -/
def Format.Admits (f : Format) (w : BusWord) : Prop :=
  fieldRd w &&& f.zeroRd = 0 ∧ fieldRa w &&& f.zeroRa = 0 ∧ fieldRb w &&& f.zeroRb = 0 ∧
    fieldImm w &&& f.zeroImm = 0

/-- The rows of the opcode table, field by field. -/
theorem opcodeTable_fields : ∀ r ∈ opcodeTable, r.pattern = packWord r.mnemonic.code 0 0 0 0 ∧
    r.mask = packWord 0xFF r.mnemonic.format.zeroRd r.mnemonic.format.zeroRa r.mnemonic.format.zeroRb
      r.mnemonic.format.zeroImm := by decide

theorem exists_row (k : Mnemonic) : ∃ r ∈ opcodeTable, r.mnemonic = k := by
  cases k <;> decide

theorem Row.matches_iff {r : Row} (hr : r ∈ opcodeTable) (w : BusWord) :
    r.matches w = true ↔ fieldOp w = r.mnemonic.code ∧ r.mnemonic.format.Admits w := by
  obtain ⟨hp, hm⟩ := opcodeTable_fields r hr
  have hop : fieldOp w &&& 0xFF = fieldOp w := BitVec.and_allOnes
  rw [Row.matches, beq_iff_eq, hp, hm, and_packWord_eq_iff, hop]
  rfl

theorem validScalar_iff (j : BitVec 4) : validScalar j = true ↔ j &&& 0x8 = 0 := by
  revert j; decide

theorem validPointDest_iff (j : BitVec 4) : validPointDest j = true ↔ j &&& 0xC = 0 := by
  revert j; decide

/-- The bits of a field the decoder's must-be-zero test covers: the whole of a field the format does not use, and
none of an index, of which the mask of the row has the high bits alone. -/
def unusedField (z : BitVec 4) : BitVec 4 := if z = 0xF then 0xF else 0

theorem mustBeZero_iff (f : Format) (w : BusWord) : w &&& f.mustBeZero = 0 ↔
    fieldRd w &&& unusedField f.zeroRd = 0 ∧ fieldRa w &&& unusedField f.zeroRa = 0 ∧
      fieldRb w &&& unusedField f.zeroRb = 0 ∧ fieldImm w &&& f.zeroImm = 0 := by
  have hm : f.mustBeZero = packWord 0 (unusedField f.zeroRd) (unusedField f.zeroRa) (unusedField f.zeroRb) f.zeroImm := by
    cases f <;> rfl
  have h0 : (0 : BusWord) = packWord 0 0 0 0 0 := rfl
  rw [hm, h0, and_packWord_eq_iff]
  exact and_iff_right BitVec.and_zero

/-- The zeros of a format are the bits the decoder tests and the high bits of the register indices; what they
leave of an index is the table's constraint. -/
theorem checks_iff (k : Mnemonic) (w : BusWord) :
    w &&& k.format.mustBeZero = 0 ∧ k.format.indicesValid w = true ↔
      k.format.Admits w ∧ k.constraint w = true := by
  rw [mustBeZero_iff, Format.Admits]
  cases k <;>
    simp [Mnemonic.format, Mnemonic.constraint, Format.indicesValid, validScalar_iff, validPointDest_iff, unusedField,
      Format.zeroRd, Format.zeroRa, Format.zeroRb, Format.zeroImm] <;> tauto

/-- What the decoder accepts. -/
theorem decode_eq_ok_iff (w : BusWord) (i : Instr) : decode w = .ok i ↔
    ∃ k : Mnemonic, fieldOp w = k.code ∧ k.format.Admits w ∧ k.constraint w = true ∧ assemble k w = i := by
  constructor
  · intro h
    unfold decode at h
    split at h
    · cases h
    · next k hk =>
      split_ifs at h with hz hv
      cases h
      obtain ⟨ha, hc⟩ := (checks_iff k w).mp ⟨not_not.mp hz, hv⟩
      exact ⟨k, (mnemonicOf_eq_some_iff _ k).mp hk, ha, hc, rfl⟩
  · rintro ⟨k, hk, ha, hc, rfl⟩
    obtain ⟨hz, hv⟩ := (checks_iff k w).mpr ⟨ha, hc⟩
    simp [decode, hk, mnemonicOf_code, hz, hv]

theorem decode_eq_unknownOpcode_iff (w : BusWord) :
    decode w = .error .unknownOpcode ↔ mnemonicOf (fieldOp w) = none := by
  unfold decode
  split
  · next h => simp [h]
  · next k h =>
    simp only [h]
    split_ifs <;> simp

/-! ### Register and modulus fields -/

theorem scalarIndex_scalarField (i : Fin 8) : scalarIndex (scalarField i) = i := by revert i; decide
theorem pointIndex_pointField (i : Fin 4) : pointIndex (pointField i) = i := by revert i; decide
theorem modSelOf_imm (m : ModSel) : modSelOf m.imm = m := by cases m <;> rfl

theorem scalarField_scalarIndex (j : BitVec 4) : scalarField (scalarIndex j) = j &&& 7 := by revert j; decide
theorem pointField_pointIndex (j : BitVec 4) : pointField (pointIndex j) = j &&& 3 := by revert j; decide

theorem imm_modSelOf (imm : BitVec 12) : (modSelOf imm).imm = imm &&& 1#12 := by
  rw [BitVec.and_one_eq_setWidth_ofBool_getLsbD, modSelOf]
  cases imm.getLsbD 0 <;> rfl

theorem setWidth_parity (imm : BitVec 12) : (imm.setWidth 8).setWidth 12 = imm &&& 0xFF := by
  refine BitVec.eq_of_toNat_eq ?_
  have hmask : (imm &&& 0xFF).toNat = imm.toNat % 2 ^ 8 := Nat.and_two_pow_sub_one_eq_mod imm.toNat 8
  rw [hmask, BitVec.toNat_setWidth_of_le (by decide), BitVec.toNat_setWidth]

/-- Masking away bits that are 0 changes nothing. -/
theorem and_not_of_and_eq_zero {n : Nat} {x z : BitVec n} (h : x &&& z = 0) : x &&& ~~~z = x :=
  calc x &&& ~~~z = x &&& ~~~z ||| x &&& z := by rw [h]; exact BitVec.or_zero.symm
    _ = x &&& (~~~z ||| z) := BitVec.and_or_distrib_left.symm
    _ = x := by rw [BitVec.or_comm, BitVec.or_not_self, BitVec.and_allOnes]

/-! ### Decoding and encoding -/

/-- Every command's word stands in its row of the table. -/
theorem tableRow : (i : Instr) → Statement i
  | .init => init
  | .zeroize => zeroize
  | .modadd rd ra rb m => modadd rd ra rb m
  | .modsub rd ra rb m => modsub rd ra rb m
  | .modmul rd ra rb m => modmul rd ra rb m
  | .mmul rd ra rb m => mmul rd ra rb m
  | .modred rd ra m => modred rd ra m
  | .modexp rd ra rb m => modexp rd ra rb m
  | .modinv rd ra m => modinv rd ra m
  | .legendre rd ra m => legendre rd ra m
  | .modsqrt rd ra m => modsqrt rd ra m
  | .pdecomp rd ra par => pdecomp rd ra par
  | .padd rd ra rb => padd rd ra rb
  | .pdbl rd ra => pdbl rd ra
  | .psmul rd ra rb => psmul rd ra rb
  | .keygen bits => keygen bits
  | .pubkey rd => pubkey rd
  | .sign => sign
  | .verify ra => verify ra
  | .sigenc => sigenc
  | .sigdec => sigdec

/-- The fields of a command's word are its operands. -/
theorem assemble_encode (i : Instr) : assemble i.mnemonic (encode i) = i := by
  cases i <;>
    simp [Instr.mnemonic, encode, assemble, fieldRd_packWord, fieldRa_packWord, fieldRb_packWord,
      fieldImm_packWord, scalarIndex_scalarField, pointIndex_pointField, modSelOf_imm]

theorem decode_encode {i : Instr} (h : i.wellFormed = true) : decode (encode i) = .ok i := by
  obtain ⟨⟨r, hr, hk, hm⟩, hc, -⟩ := tableRow i h
  obtain ⟨hop, ha⟩ := (Row.matches_iff hr _).mp hm
  rw [hk] at hop ha
  exact (decode_eq_ok_iff _ i).mpr ⟨i.mnemonic, hop, ha, hc, assemble_encode i⟩

theorem wellFormed_assemble (k : Mnemonic) (w : BusWord) : (assemble k w).wellFormed = k.constraint w := by
  cases k <;> rfl

/-- Assembling a command and encoding it keeps of a word's operand fields the bits its format uses. -/
theorem encode_assemble (k : Mnemonic) (w : BusWord) :
    encode (assemble k w) = packWord k.code (fieldRd w &&& ~~~k.format.zeroRd) (fieldRa w &&& ~~~k.format.zeroRa)
      (fieldRb w &&& ~~~k.format.zeroRb) (fieldImm w &&& ~~~k.format.zeroImm) := by
  have hindex : ∀ j : BitVec 4, j &&& 15#4 = j := fun _ => BitVec.and_allOnes
  have himm : ∀ imm : BitVec 12, imm &&& 4095#12 = imm := fun _ => BitVec.and_allOnes
  cases k <;>
    simp [hindex, himm, encode, assemble, scalarField_scalarIndex, pointField_pointIndex, imm_modSelOf, setWidth_parity,
      Mnemonic.format, Format.zeroRd, Format.zeroRa, Format.zeroRb, Format.zeroImm]

theorem encode_assemble_of_admits {k : Mnemonic} {w : BusWord} (hop : fieldOp w = k.code) (ha : k.format.Admits w) :
    encode (assemble k w) = w := by
  obtain ⟨hrd, hra, hrb, himm⟩ := ha
  rw [encode_assemble, and_not_of_and_eq_zero hrd, and_not_of_and_eq_zero hra, and_not_of_and_eq_zero hrb,
    and_not_of_and_eq_zero himm, ← hop, packWord_fields]

theorem wellFormed_and_encode_of_decode {w : BusWord} {i : Instr} (h : decode w = .ok i) :
    i.wellFormed = true ∧ encode i = w := by
  obtain ⟨k, hop, ha, hc, rfl⟩ := (decode_eq_ok_iff w i).mp h
  exact ⟨(wellFormed_assemble k w).trans hc, encode_assemble_of_admits hop ha⟩

theorem exists_decode_iff_row (w : BusWord) : (∃ i, decode w = .ok i) ↔
    ∃ r ∈ opcodeTable, r.matches w = true ∧ r.mnemonic.constraint w = true := by
  constructor
  · rintro ⟨i, h⟩
    obtain ⟨k, hop, ha, hc, -⟩ := (decode_eq_ok_iff w i).mp h
    obtain ⟨r, hr, rfl⟩ := exists_row k
    exact ⟨r, hr, (Row.matches_iff hr w).mpr ⟨hop, ha⟩, hc⟩
  · rintro ⟨r, hr, hm, hc⟩
    obtain ⟨hop, ha⟩ := (Row.matches_iff hr w).mp hm
    exact ⟨_, (decode_eq_ok_iff w _).mpr ⟨r.mnemonic, hop, ha, hc, rfl⟩⟩

/-- A word has the opcode of every row it is in, and no two rows share one. -/
theorem opcodeTable_disjoint :
    opcodeTable.Pairwise fun r r' => ∀ w : BusWord, ¬ (r.matches w = true ∧ r'.matches w = true) := by
  have hcodes : opcodeTable.Pairwise fun r r' => r.mnemonic.code ≠ r'.mnemonic.code := by decide
  refine hcodes.imp_of_mem fun hr hr' hne w ⟨hm, hm'⟩ => hne ?_
  rw [← ((Row.matches_iff hr w).mp hm).1, ((Row.matches_iff hr' w).mp hm').1]

end Sys2Proof

namespace Sys2Proof.Machine

open Sys2Proof Sys2Proof.Claims

/-! ### The decode stage and the lock stage (R109) -/

/-- A write of a word to `CMD` that is no command raises `IllegalCommand` and is acknowledged. -/
theorem step_of_decode_error {s : State} {w : BusWord} {rest : List HostEvent} {e : DecodeError}
    (hh : s.host = .write (s.build.base + 0x00C) 4 w :: rest) (hb : s.build.base % 0x800 = 0)
    (hd : decode w = .error e) : step s = .next ((s.raise (illegalCommand e.info)).answer .ack) := by
  have ha : s.nextAction = .command w := (State.nextAction_cons hh).trans (State.actionOf_command hb)
  rw [step_of_command ha, runCommand, hd, finishCommand]

theorem State.pointSource_index (s : State) {j : BitVec 4} {i : Fin 4} (h : j.toNat = i.val) :
    s.pointSource j = some s.pt[i] := by
  have hlt : j.toNat < 4 := h ▸ i.isLt
  simp [State.pointSource, h]

theorem State.pointSource_generator (s : State) {j : BitVec 4} (h : j.toNat = 4) : s.pointSource j = some s.g := by
  simp [State.pointSource, h]

theorem State.pointSource_reserved (s : State) {j : BitVec 4} (h : 5 ≤ j.toNat) : s.pointSource j = none := by
  rw [State.pointSource, dif_neg (by omega), if_neg (by omega)]

theorem State.withSource_none {s : State} {j : BitVec 4} (use : PointReg → Result) (h : s.pointSource j = none) :
    s.withSource j use = .next (s.raise reservedIndex) := by
  simp [State.withSource, h]

/-- With a valid source, a command that answers `r` whatever the point answers `r`. -/
theorem State.withSource_of_valid {s : State} {j : BitVec 4} {use : PointReg → Result} {r : Result}
    (hj : validPointSource j = true) (h : ∀ q, use q = r) : s.withSource j use = r := by
  rw [← s.pointSource_isSome, Option.isSome_iff_exists] at hj
  obtain ⟨q, hq⟩ := hj
  rw [State.withSource_some use hq, h q]

/-- On an unlocked core a legal command but `INIT` and `ZEROIZE` stops in the lock stage. -/
theorem exec_of_unlocked {i : Instr} {s : State} (hw : i.wellFormed = true) (hl : s.status.locked = false)
    (hinit : i ≠ .init) (hzero : i ≠ .zeroize) :
    exec i s = .next (s.raise { kind := .notInitialised, info := 0 }) := by
  have hlock (body : Result) := State.whenLocked_unlocked body hl
  cases i with
  | init => exact absurd rfl hinit
  | zeroize => exact absurd rfl hzero
  | padd rd ra rb =>
    obtain ⟨ha, hb⟩ := Bool.and_eq_true_iff.mp hw
    exact State.withSource_of_valid ha fun _ => State.withSource_of_valid hb fun _ => hlock _
  | pdbl rd ra => exact State.withSource_of_valid hw fun _ => hlock _
  | psmul rd ra rb => exact State.withSource_of_valid hw fun _ => hlock _
  | verify ra => exact State.withSource_of_valid hw fun _ => hlock _
  | _ => exact hlock _

theorem execInit_of_locked {s : State} (hl : s.status.locked = true) :
    execInit s = .next (s.raise { kind := .alreadyInitialised, info := 0 }) := by
  rw [execInit, if_pos hl]

end Sys2Proof.Machine

namespace Sys2Proof.Claims

open Sys2Proof Sys2Proof.Machine

/-- Settles O6: the word is in its command's row, and its fields are the operands. -/
theorem decodeOfEncode : Obligations.DecodeOfEncode := fun _ => decode_encode

/-- Settles O7: an accepted word has no bit outside the operands its command keeps. -/
theorem acceptedWordIsItsEncoding : Obligations.AcceptedWordIsItsEncoding := fun _ _ => wellFormed_and_encode_of_decode

/-- Settles O8: the decoder's tests on the fields are those of the table's rows, and each row has its own opcode. -/
theorem legalWordsAreTableRows : Obligations.LegalWordsAreTableRows := ⟨exists_decode_iff_row, opcodeTable_disjoint⟩

/-- Settles O11: the decoder's reason becomes the `info` of the raised error, and the list of R110 is that of the
values of `op` without a mnemonic. -/
theorem illegalWordRaisesIllegalCommand : Obligations.IllegalWordRaisesIllegalCommand := by
  intro s w rest hh hb
  refine ⟨fun e hd => ?_, ?_⟩
  · rw [step_of_decode_error hh hb hd, State.answer_of_host (s := s.raise _) hh]
    cases e <;> rfl
  · rw [decode_eq_unknownOpcode_iff, mnemonicOf_eq_none_iff, fieldOp_toNat]

/-- Settles O24: the lock stage stands before the body of every command but `INIT` and `ZEROIZE`. -/
theorem lockStageErrors : Obligations.LockStageErrors := by
  intro i s hw
  refine ⟨exec_of_unlocked hw, ?_⟩
  rintro hl rfl
  exact execInit_of_locked hl

/-- Settles O9: the words are decoded. -/
theorem specWordsDecode : Obligations.SpecWordsDecode := by
  unfold Obligations.SpecWordsDecode
  decide

/-- Settles O39: a source index is one of `PT`, the generator or reserved, and `PDBL` reads its source first. -/
theorem pointSourceNamesRegister : Obligations.PointSourceNamesRegister := by
  intro s j
  refine ⟨fun i => s.pointSource_index, s.pointSource_generator, fun h => ?_⟩
  have hnone := s.pointSource_reserved h
  exact ⟨hnone, fun rd => State.withSource_none _ hnone⟩

end Sys2Proof.Claims

/-!
SUPPORT. Proofs about the square-root solver and `Decompress`, which `INIT` runs, and about `INIT`, `ZEROIZE` and
what every command leaves in `STATUS`.
-/

namespace Sys2Proof.Machine

open Sys2Proof Sys2Proof.Claims

/-! ### The sampler (R163) -/

theorem usableDraw_iff {q u : Nat} (hq : 0 < q) : UsableDraw q u ↔ ¬ (u = 0 ∨ q ≤ u) ∧ legendre u q ≠ 1 := by
  rw [legendre_eq u hq, UsableDraw]
  omega

theorem spent_succ (v : Word) (rest : List Word) (taken count : Nat) :
    spent { queue := v :: rest, taken := taken } (count + 1) = spent { queue := rest, taken := taken + 1 } count := by
  have htaken : taken + (count + 1) = taken + 1 + count := by omega
  rw [spent, spent, htaken, List.drop_succ_cons]

/-- One round of the sampler on the lined-up draw `v`. -/
theorem sampleNonResidue_cons (q left : Nat) (v : Word) (rest : List Word) (taken : Nat) :
    sampleNonResidue q (left + 1) { queue := v :: rest, taken := taken } =
      if v.toNat % 2 ^ bitlength q = 0 ∨ q ≤ v.toNat % 2 ^ bitlength q then
        sampleNonResidue q left { queue := rest, taken := taken + 1 }
      else if legendre (v.toNat % 2 ^ bitlength q) q ≠ 1 then
        (some (v.toNat % 2 ^ bitlength q), { queue := rest, taken := taken + 1 })
      else sampleNonResidue q left { queue := rest, taken := taken + 1 } := rfl

/-- A usable draw ends the sampling. -/
theorem sampleNonResidue_of_usable {q : Nat} (hq : 0 < q) {v : Word} (hv : UsableDraw q (v.toNat % 2 ^ bitlength q))
    (left : Nat) (rest : List Word) (taken : Nat) :
    sampleNonResidue q (left + 1) { queue := v :: rest, taken := taken } =
      (some (v.toNat % 2 ^ bitlength q), { queue := rest, taken := taken + 1 }) := by
  obtain ⟨hrange, hleg⟩ := (usableDraw_iff hq).mp hv
  rw [sampleNonResidue_cons, if_neg hrange, if_pos hleg]

/-- A draw that is not usable is spent. -/
theorem sampleNonResidue_of_not_usable {q : Nat} (hq : 0 < q) {v : Word}
    (hv : ¬ UsableDraw q (v.toNat % 2 ^ bitlength q)) (left : Nat) (rest : List Word) (taken : Nat) :
    sampleNonResidue q (left + 1) { queue := v :: rest, taken := taken } =
      sampleNonResidue q left { queue := rest, taken := taken + 1 } := by
  rw [sampleNonResidue_cons]
  split_ifs with hrange hleg
  · rfl
  · exact absurd ((usableDraw_iff hq).mpr ⟨hrange, hleg⟩) hv
  · rfl

/-- The sampler answers the first usable draw, having spent the draws up to it. -/
theorem sampleNonResidue_of_firstUsable {q : Nat} (hq : 0 < q) {limit : Nat} {port : Port} {j : Nat}
    (h : FirstUsable q limit port j) :
    ∃ b, UsableDraw q b ∧ sampleNonResidue q limit port = (some b, spent port (j + 1)) := by
  induction limit generalizing port j with
  | zero => exact absurd h.1 (by omega)
  | succ left ih =>
    obtain ⟨hj, ⟨u, hu, hok⟩, hbefore⟩ := h
    obtain ⟨_ | ⟨v, rest⟩, taken⟩ := port
    · simp [lined] at hu
    cases j with
    | zero =>
      obtain rfl : v.toNat % 2 ^ bitlength q = u := by simpa [lined] using hu
      exact ⟨_, hok, sampleNonResidue_of_usable hq hok left rest taken⟩
    | succ j =>
      have hfirst : FirstUsable q left { queue := rest, taken := taken + 1 } j :=
        ⟨by omega, ⟨u, hu, hok⟩, fun i w hi hw => hbefore (i + 1) w (by omega) hw⟩
      rw [sampleNonResidue_of_not_usable hq (hbefore 0 _ (by omega) rfl), spent_succ]
      exact ih hfirst

/-- Where none of the draws is usable, the sampler spends them all and answers none. -/
theorem sampleNonResidue_of_noneUsable {q : Nat} (hq : 0 < q) {limit : Nat} {port : Port}
    (h : NoneUsable q limit port) : sampleNonResidue q limit port = (none, spent port limit) := by
  induction limit generalizing port with
  | zero => rfl
  | succ left ih =>
    obtain ⟨hlen, hnone⟩ := h
    obtain ⟨_ | ⟨v, rest⟩, taken⟩ := port
    · simp at hlen
    have hrest : NoneUsable q left { queue := rest, taken := taken + 1 } :=
      ⟨by simpa using hlen, fun j u hj hu => hnone (j + 1) u (by omega) hu⟩
    rw [sampleNonResidue_of_not_usable hq (hnone 0 _ (by omega) rfl), spent_succ]
    exact ih hrest

theorem exists_firstUsable {q limit : Nat} {port : Port} (h : SamplerSucceeds q limit port) :
    ∃ j, FirstUsable q limit port j := by
  classical
  obtain ⟨u, hlt, hu, hok⟩ := Nat.find_spec h
  exact ⟨Nat.find h, hlt, ⟨u, hu, hok⟩, fun i w hi hw hw' => Nat.find_min h hi ⟨w, by omega, hw, hw'⟩⟩

/-! ### Residues as elements of the ring -/

theorem eq_of_natCast_eq {q x y : Nat} (h : (x : ZMod q) = y) (hx : x < q) (hy : y < q) : x = y :=
  ((ZMod.natCast_eq_natCast_iff _ _ _).mp h).eq_of_lt_of_lt hx hy

theorem natCast_sub_one {q : Nat} (hq : 0 < q) : ((q - 1 : Nat) : ZMod q) = -1 := by
  rw [Nat.cast_sub hq, ZMod.natCast_self, Nat.cast_one, zero_sub]

theorem natCast_modexp {m : Nat} (x e : Nat) (hm : 0 < m) : ((modexp x e m : Nat) : ZMod m) = (x : ZMod m) ^ e := by
  rw [modexp_eq x e hm, ZMod.natCast_mod, Nat.cast_pow]

/-- What a prime does not divide has an inverse (R18). -/
theorem exists_inverse_of_not_dvd {q x : Nat} (hp : q.Prime) (hx : ¬ q ∣ x) :
    ∃ v, inverse x q = some v ∧ (x : ZMod q) * v = 1 := by
  have hgcd : Nat.gcd (x % q) q = 1 := (Nat.gcd_rec q x).symm.trans (hp.coprime_iff_not_dvd.mpr hx)
  obtain ⟨-, v, hv, -, hone⟩ := (inverse_cases (x := x) hp.two_le).resolve_right fun h => h.1 hgcd
  have hcast := congrArg (Nat.cast (R := ZMod q)) hone
  exact ⟨v, hv, by rwa [ZMod.natCast_mod, Nat.cast_mul, Nat.cast_one] at hcast⟩

/-- A usable draw of a prime modulus is a non-residue (R163, C2). -/
theorem legendre_of_usableDraw {q b : Nat} (hp : q.Prime) (hq : 3 ≤ q) (hodd : q % 2 = 1) (hb : UsableDraw q b) :
    legendre b q = q - 1 := by
  obtain ⟨hrange, hne⟩ := (usableDraw_iff hp.pos).mp hb
  exact (legendre_eq_one_or hp hq hodd (Nat.not_dvd_of_pos_of_lt (by omega) (by omega))).resolve_left hne

/-! ### The refinement (R162, R164, R165) -/

/-- Dividing out the twos keeps the product and leaves an odd factor. -/
theorem splitTwos_spec {fuel s t : Nat} (h0 : 0 < t) (hf : t < 2 ^ fuel) :
    2 ^ (splitTwos fuel s t).1 * (splitTwos fuel s t).2 = 2 ^ s * t ∧ (splitTwos fuel s t).2 % 2 = 1 := by
  induction fuel generalizing s t with
  | zero => omega
  | succ fuel ih =>
    rw [splitTwos]
    split
    · next he =>
      obtain ⟨hprod, hodd⟩ := ih (s := s + 1) (t := t / 2) (by omega) (by rw [pow_succ] at hf; omega)
      refine ⟨hprod.trans ?_, hodd⟩
      rw [pow_succ, mul_assoc, Nat.mul_div_cancel' (Nat.dvd_of_mod_eq_zero he)]
    · next ho => exact ⟨rfl, by simpa using ho⟩

/-- `q − 1 = 2 ^ (k + 1) · t` with `t` odd, for an odd `q` (R162). -/
theorem factorTwos_spec {q : Nat} (hq : 3 ≤ q) (hodd : q % 2 = 1) :
    ∃ k t, factorTwos q = (k + 1, t) ∧ t % 2 = 1 ∧ (q - 1) / 2 = t * 2 ^ k := by
  obtain ⟨hprod, ht⟩ : 2 ^ (factorTwos q).1 * (factorTwos q).2 = 2 ^ 0 * (q - 1) ∧ (factorTwos q).2 % 2 = 1 :=
    splitTwos_spec (by omega) (lt_two_pow_bitlength (q - 1))
  generalize factorTwos q = st at hprod ht ⊢
  obtain ⟨_ | k, t⟩ := st <;> simp only [pow_zero, one_mul] at hprod ht
  · omega
  · have heven : q - 1 = 2 * (t * 2 ^ k) := by
      rw [← hprod]
      ring
    exact ⟨k, t, rfl, ht, by omega⟩

/-- The rounds of the solver (R165): before a run of `rounds` of them the auxiliary element's order divides
`2 ^ rounds`, and `c` has order `2 ^ (rounds + 1)`; at the end the element is 1. -/
theorem refine_sq {q : Nat} [Fact q.Prime] (hq : 3 ≤ q) (xinv : Nat) : ∀ rounds c r : Nat,
    ((r : ZMod q) * r * xinv) ^ 2 ^ rounds = 1 → (c : ZMod q) ^ 2 ^ rounds = -1 →
    ((refine q xinv rounds c r : Nat) : ZMod q) * (refine q xinv rounds c r : Nat) * xinv = 1 := by
  intro rounds
  induction rounds with
  | zero => exact fun c r hr _ => by simpa [refine] using hr
  | succ rounds ih =>
    intro c r hr hc
    have hdouble (y : ZMod q) : y ^ 2 ^ (rounds + 1) = (y * y) ^ 2 ^ rounds := by
      rw [pow_succ', pow_mul, pow_two]
    rw [hdouble] at hr hc
    have haux : ((modexp (r * r * xinv % q) (2 ^ rounds) q : Nat) : ZMod q) =
        ((r : ZMod q) * r * xinv) ^ 2 ^ rounds := by
      rw [natCast_modexp _ _ (by omega), ZMod.natCast_mod, Nat.cast_mul, Nat.cast_mul]
    have hlt := modexp_lt (r * r * xinv % q) (2 ^ rounds) (by omega : 0 < q)
    rw [refine]
    refine ih _ _ ?_ (by rwa [ZMod.natCast_mod, Nat.cast_mul])
    split
    · next hd =>
      rw [hd, natCast_sub_one (by omega)] at haux
      rw [ZMod.natCast_mod, Nat.cast_mul]
      calc ((r : ZMod q) * c * (r * c) * xinv) ^ 2 ^ rounds
          = (r * r * xinv) ^ 2 ^ rounds * (c * c) ^ 2 ^ rounds := by rw [← mul_pow]; ring
        _ = 1 := by rw [← haux, hc]; ring
    · next hd =>
      rw [mul_pow, mul_self_eq_one_iff] at hr
      refine hr.resolve_right fun hneg => hd (eq_of_natCast_eq ?_ hlt (by omega))
      rw [haux, hneg, natCast_sub_one (by omega)]

/-- From a residue and a usable draw the solver computes a root (R164, R165). -/
theorem rootFrom_sq {q x b : Nat} (hp : q.Prime) (hq : 3 ≤ q) (hx : ¬ q ∣ x) (hleg : legendre x q = 1)
    (hb : UsableDraw q b) : ∃ v, rootFrom x q b = .ok v ∧ v * v % q = x % q := by
  have : Fact q.Prime := ⟨hp⟩
  have hodd : q % 2 = 1 := hp.eq_two_or_odd.resolve_left (by omega)
  obtain ⟨k, t, hst, ht, hexp⟩ := factorTwos_spec hq hodd
  obtain ⟨xinv, hinv, hxinv⟩ := exists_inverse_of_not_dvd hp hx
  have hroot : ((modexp x ((t + 1) / 2) q : Nat) : ZMod q) * (modexp x ((t + 1) / 2) q : Nat) * xinv = x ^ t := by
    have he : (t + 1) / 2 + (t + 1) / 2 = t + 1 := by omega
    rw [natCast_modexp _ _ hp.pos, ← pow_add, he, pow_succ, mul_assoc, hxinv, mul_one]
  have hsq := refine_sq hq xinv k (modexp b t q) (modexp x ((t + 1) / 2) q)
    (by rw [hroot, ← pow_mul, ← hexp, ← natCast_legendre x hp.pos, hleg, Nat.cast_one])
    (by rw [natCast_modexp _ _ hp.pos, ← pow_mul, ← hexp, ← natCast_legendre b hp.pos,
          legendre_of_usableDraw hp hq hodd hb, natCast_sub_one hp.pos])
  refine ⟨refine q xinv k (modexp b t q) (modexp x ((t + 1) / 2) q), by simp [rootFrom, hst, inverseOrRaise, hinv],
    (ZMod.natCast_eq_natCast_iff _ _ _).mp ?_⟩
  rw [Nat.cast_mul]
  generalize ((refine q xinv k (modexp b t q) (modexp x ((t + 1) / 2) q) : Nat) : ZMod q) = v at hsq ⊢
  calc v * v = v * v * xinv * x := by rw [mul_assoc, mul_comm (xinv : ZMod q), hxinv, mul_one]
    _ = x := by rw [hsq, one_mul]

/-! ### The solver (R160 to R165) -/

/-- A residue that the modulus does not divide passes the Euler test (R20). -/
theorem legendre_eq_one_of_square {q x : Nat} (hp : q.Prime) (hq : 3 ≤ q) (hx : ¬ q ∣ x)
    (hr : ∃ r, r * r % q = x % q) : legendre x q = 1 := by
  have : Fact q.Prime := ⟨hp⟩
  obtain ⟨r, hr⟩ := hr
  have hrx : (r : ZMod q) * r = x := by exact_mod_cast (ZMod.natCast_eq_natCast_iff _ _ _).mpr hr
  have hr0 : (r : ZMod q) ≠ 0 := by
    intro h0
    rw [h0, mul_zero, eq_comm, ZMod.natCast_eq_zero_iff] at hrx
    exact hx hrx
  have hodd : q % 2 = 1 := hp.eq_two_or_odd.resolve_left (by omega)
  have hcast : ((legendre x q : Nat) : ZMod q) = (1 : Nat) := by
    rw [natCast_legendre x hp.pos, ← hrx, ← pow_two, ← pow_mul, Nat.cast_one]
    have he : 2 * ((q - 1) / 2) = q - 1 := by omega
    rw [he, ZMod.pow_card_sub_one_eq_one hr0]
  exact eq_of_natCast_eq hcast (legendre_lt x hp.pos) (by omega)

/-- For a prime modulus, a residue and a usable draw lined up, the solver answers a root in range and has spent the
draws up to the first usable one (R160, R163, R165). -/
theorem sqrt_of_residue {a q limit : Nat} {port : Port} (hp : q.Prime) (hq : 3 ≤ q) (hr : ∃ r, r * r % q = a % q)
    (hs : a % q = 0 ∨ SamplerSucceeds q limit port) :
    ∃ v port', sqrt a q limit port = (.ok v, port') ∧ v < q ∧ v * v % q = a % q ∧ (a % q = 0 → v = 0) ∧
      SolverDraws q limit (a % q) port port' := by
  by_cases h0 : a % q = 0
  · have he : sqrt a q limit port = (.ok 0, port) := by simp [sqrt, h0]
    exact ⟨0, port, he, hp.pos, by simp [h0], fun _ => rfl, fun _ => rfl, fun h => absurd h0 h⟩
  have hdvd : ¬ q ∣ a % q := fun h => h0 (by simpa using Nat.mod_eq_zero_of_dvd h)
  have hleg : legendre (a % q) q = 1 := legendre_eq_one_of_square hp hq hdvd (by simpa using hr)
  obtain ⟨j, hj⟩ := exists_firstUsable (hs.resolve_left h0)
  obtain ⟨b, hb, hsample⟩ := sampleNonResidue_of_firstUsable hp.pos hj
  obtain ⟨v, hv, hsq⟩ := rootFrom_sq hp hq hdvd hleg hb
  have he : sqrt a q limit port = (.ok v, spent port (j + 1)) := by simp [sqrt, h0, hleg, hsample, hv]
  have hlt : v < q := (sqrt_answer a q limit port).value (congrArg Prod.fst he) hp.pos
  refine ⟨v, _, he, hlt, by simpa using hsq, fun h => absurd h h0, fun h => absurd h h0, fun _ j' hj' => ?_⟩
  obtain ⟨b', -, hsample'⟩ := sampleNonResidue_of_firstUsable hp.pos hj'
  exact congrArg Prod.snd (hsample.symm.trans hsample')

/-- An input that fails the Euler test is reported without a draw (R161). -/
theorem sqrt_of_euler_ne_one {a q : Nat} (hq : 0 < q) (h0 : a % q ≠ 0) (he : (a % q) ^ ((q - 1) / 2) % q ≠ 1)
    (limit : Nat) (port : Port) : sqrt a q limit port = (.error (nonResidue 0), port) := by
  rw [← legendre_eq _ hq] at he
  simp [sqrt, h0, he]

/-- Where none of the draws is usable, all are spent and the draw limit is reported (R163). -/
theorem sqrt_of_noneUsable {a q limit : Nat} {port : Port} (hq : 0 < q) (h0 : a % q ≠ 0)
    (he : (a % q) ^ ((q - 1) / 2) % q = 1) (hn : NoneUsable q limit port) :
    sqrt a q limit port = (.error (nonResidue 1), spent port limit) := by
  rw [← legendre_eq _ hq] at he
  simp [sqrt, h0, he, sampleNonResidue_of_noneUsable hq hn]

/-! ### `Decompress` (R170) -/

theorem curveRhs_mod (p a b x : Nat) : curveRhs p a b x % p = curveRhs p a b x := Nat.mod_mod _ _

/-- The chosen root is a root, and has the wanted parity unless it is 0 (R170). -/
theorem pickRoot_spec {p beta : Nat} (par : Nat) (hodd : p % 2 = 1) (hlt : beta < p) :
    pickRoot p par beta * pickRoot p par beta % p = beta * beta % p ∧
    (pickRoot p par beta ≠ 0 → pickRoot p par beta % 2 = par % 2) := by
  unfold pickRoot
  split
  · next h => exact ⟨rfl, fun _ => h⟩
  · next h =>
    rcases Nat.eq_zero_or_pos beta with rfl | hpos
    · simp
    · rw [Nat.mod_eq_of_lt (by omega : p - beta < p)]
      refine ⟨(ZMod.natCast_eq_natCast_iff _ _ _).mp ?_, fun _ => by omega⟩
      rw [Nat.cast_mul, Nat.cast_mul, Nat.cast_sub hlt.le, ZMod.natCast_self]
      ring

/-- For a prime modulus, a right side with a root and a usable draw lined up, `Decompress` answers the point over `x`
on the curve with the wanted parity. -/
theorem decompress_of_residue {p a b x limit : Nat} {port : Port} (par : Nat) (hp : p.Prime) (h3 : 3 ≤ p)
    (hr : ∃ r, r * r % p = curveRhs p a b x) (hs : curveRhs p a b x = 0 ∨ SamplerSucceeds p limit port) :
    ∃ y port', decompress p a b par x limit port = (.ok (.finite x y), port') ∧ y < p ∧
      OnCurve p a b (.finite x y) ∧ (y ≠ 0 → y % 2 = par % 2) ∧ SolverDraws p limit (curveRhs p a b x) port port' := by
  have hodd : p % 2 = 1 := hp.eq_two_or_odd.resolve_left (by omega)
  rw [← curveRhs_mod] at hr hs ⊢
  obtain ⟨beta, port', hsqrt, hlt, hsq, -, hdraws⟩ := sqrt_of_residue hp h3 hr hs
  obtain ⟨hroot, hpar⟩ := pickRoot_spec par hodd hlt
  refine ⟨pickRoot p par beta, port', by simp [decompress, hsqrt], pickRoot_lt par hlt, ?_, hpar, hdraws⟩
  exact hroot.trans (hsq.trans (curveRhs_mod p a b x))

/-- A right side that fails the Euler test is `InvalidPoint(0)`, without a draw. -/
theorem decompress_of_euler_ne_one {p a b x : Nat} (hp : 0 < p) (h0 : curveRhs p a b x ≠ 0)
    (he : curveRhs p a b x ^ ((p - 1) / 2) % p ≠ 1) (par limit : Nat) (port : Port) :
    decompress p a b par x limit port = (.error { kind := .invalidPoint, info := 0 }, port) := by
  rw [← curveRhs_mod] at h0 he
  simp [decompress, sqrt_of_euler_ne_one hp h0 he, decompressError, nonResidue]

/-- Where none of the draws is usable, all are spent and the answer is `InvalidPoint(1)`. -/
theorem decompress_of_noneUsable {p a b x limit : Nat} {port : Port} (hp : 0 < p) (h0 : curveRhs p a b x ≠ 0)
    (he : curveRhs p a b x ^ ((p - 1) / 2) % p = 1) (hn : NoneUsable p limit port) (par : Nat) :
    decompress p a b par x limit port = (.error { kind := .invalidPoint, info := 1 }, spent port limit) := by
  rw [← curveRhs_mod] at h0 he
  simp [decompress, sqrt_of_noneUsable hp h0 he hn, decompressError, nonResidue]

/-! ### `INIT` (R131) -/

/-- Check `k` of the seven fails. -/
def State.CheckFails (s : State) : Nat → Prop
  | 1 => s.p.toNat % 2 = 0 ∨ s.p.toNat < 5
  | 2 => s.p.toNat ≤ s.a.toNat ∨ s.p.toNat ≤ s.b.toNat
  | 3 => (4 * s.a.toNat * s.a.toNat * s.a.toNat + 27 * s.b.toNat * s.b.toNat) % s.p.toNat = 0
  | 4 => s.n.toNat % 2 = 0 ∨ s.n.toNat < 3
  | 5 => bitlength s.n.toNat % 4 ≠ 0
  | 6 => s.p.toNat ≤ s.gcx.toNat
  | 7 => s.hlen.toNat < 1 ∨ 64 < s.hlen.toNat
  | _ => False

/-- `INIT` goes through its checks in order and keeps the first that fails. -/
theorem domainFailure_eq_find? (s : State) [DecidablePred s.CheckFails] : s.domainFailure =
    ((List.range' 1 7).find? fun k => decide (s.CheckFails k)).map (BitVec.ofNat 8) := by
  simp only [State.domainFailure, List.range', State.CheckFails, List.find?_cons]
  split_ifs <;> simp only [*, ne_eq, not_false_eq_true, decide_true, decide_false] <;> rfl

/-- The first check that fails is reported. -/
theorem domainFailure_of_first {s : State} {k : Nat} (h1 : 1 ≤ k) (h7 : k ≤ 7) (hk : s.CheckFails k)
    (hfirst : ∀ l, 1 ≤ l → l < k → ¬ s.CheckFails l) : s.domainFailure = some (BitVec.ofNat 8 k) := by
  classical
  have hfind : ((List.range' 1 7).find? fun k => decide (s.CheckFails k)) = some k :=
    List.find?_range'_eq_some.mpr ⟨by simpa using hk, by simp; omega, fun l h h' => by simpa using hfirst l h h'⟩
  rw [domainFailure_eq_find?, hfind, Option.map_some]

theorem domainFailure_of_none {s : State} (h : ∀ k, 1 ≤ k → k ≤ 7 → ¬ s.CheckFails k) : s.domainFailure = none := by
  classical
  have hfind : ((List.range' 1 7).find? fun k => decide (s.CheckFails k)) = none :=
    List.find?_range'_eq_none.mpr fun k h1 h8 => by simpa using h k h1 (by omega)
  rw [domainFailure_eq_find?, hfind, Option.map_none]

section

variable {s : State} (hl : s.status.locked = false)

include hl

theorem execInit_of_failure {info : Byte} (hc : s.domainFailure = some info) :
    execInit s = .next (s.raise { kind := .invalidDomain, info := info }) := by
  simp [execInit, hl, hc]

theorem execInit_of_invalid_generator (hc : s.domainFailure = none) {e : CmdError} {port : Port}
    (hd : s.decompress s.gcpar.toNat s.gcx.toNat = (.error e, port)) :
    execInit s = .next ((s.setPort port).raise e) := by
  simp [execInit, hl, hc, hd]

theorem execInit_of_generator (hc : s.domainFailure = none) {g : Point} {port : Port}
    (hd : s.decompress s.gcpar.toNat s.gcx.toNat = (.ok g, port)) :
    execInit s = .next ((s.setPort port).lockDomain g (bitlength s.n.toNat)).succeed := by
  simp [execInit, hl, hc, hd]

end

/-! ### What a command leaves in `STATUS` (R130) -/

section

variable {i : Instr} {s t : State}

theorem Effect.done (h : Effect i s (.next t)) : t.status.done = true := by cases h <;> rfl

/-- `VALID` is set by a verdict of `VERIFY` alone. -/
theorem Effect.of_valid (h : Effect i s (.next t)) (hv : t.status.valid = true) :
    (∃ ra, i = .verify ra) ∧ t.status.err = 0 ∧ t.status.errInfo = 0 := by
  cases h with
  | verdict ra accept hi => exact ⟨⟨ra, hi⟩, rfl, rfl⟩
  | _ => exact absurd hv Bool.false_ne_true

/-- `LOCKED` is changed by a successful `INIT` alone. -/
theorem Effect.of_locked_ne (h : Effect i s (.next t)) (hne : t.status.locked ≠ s.status.locked) :
    i = .init ∧ s.status.locked = false ∧ t.status.err = 0 := by
  cases h with
  | locked y port hi hl => exact ⟨hi, hl, rfl⟩
  | _ => exact absurd rfl hne

end

end Sys2Proof.Machine

namespace Sys2Proof.Claims

open Sys2Proof Sys2Proof.Machine

/-! ### Control, settled -/

/-- Settles O21: every effect of a command sets `DONE`; a verdict alone sets `VALID`, a successful `INIT` alone
`LOCKED`. -/
theorem completedCommandWritesStatus : Obligations.CompletedCommandWritesStatus := by
  intro i s t h
  have heff : Effect i s (.next t) := h ▸ exec_effect i s
  obtain ⟨-, hie, -⟩ := heff.keeps_parameters
  exact ⟨heff.done, by rw [State.irq, heff.done, hie, Bool.and_true], heff.of_valid, heff.of_locked_ne⟩

/-- Settles O26: the checks are a search in order; past them the answer of `Decompress` is the command's. -/
theorem initReportsFirstFailedCheck : Obligations.InitReportsFirstFailedCheck := by
  intro s hl p a b n fails rhs limit
  refine ⟨fun k h1 h7 hk hfirst => execInit_of_failure hl (domainFailure_of_first h1 h7 hk hfirst),
    fun hnone h0 => ?_⟩
  have hc : s.domainFailure = none := domainFailure_of_none hnone
  obtain ⟨⟨-, hp5⟩, -⟩ := (domainFailure_eq_none_iff s).mp hc
  have hp : 0 < p := by omega
  exact ⟨fun he => execInit_of_invalid_generator hl hc (decompress_of_euler_ne_one hp h0 he ..),
    fun he hn => execInit_of_invalid_generator hl hc (decompress_of_noneUsable hp h0 he hn _)⟩

/-- Settles O27: the checks pass, and `Decompress` answers the point over `GCX` that `INIT` locks. -/
theorem initDerivesGeneratorAndLocks : Obligations.InitDerivesGeneratorAndLocks := by
  intro s hl hprime hp5 ha hb hdisc hn2 hn3 hlen hgcx hh1 hh64 hr hs
  have hc : s.domainFailure = none := by
    refine (domainFailure_eq_none_iff s).mpr
      ⟨⟨hprime.eq_two_or_odd.resolve_left (by omega), hp5⟩, ⟨ha, hb⟩, ?_, ⟨hn2, hn3⟩, hlen, hgcx, hh1, hh64⟩
    convert hdisc using 3 <;> ring
  obtain ⟨y, port, hd, hy, hcurve, hpar, hdraws⟩ :=
    decompress_of_residue s.gcpar.toNat hprime (by omega) hr hs
  have hyw : (toWord y).toNat = y := toWord_toNat (hy.trans s.p.isLt)
  refine ⟨_, toWord y, execInit_of_generator hl hc hd, ?_, by rwa [hyw], by rwa [hyw], by rwa [hyw], hdraws⟩
  have hg : PointReg.ofPoint (.finite s.gcx.toNat y) = { x := s.gcx, y := toWord y, inf := false } := by
    rw [PointReg.ofPoint, toWord_of_toNat]
  rw [← hg]
  rfl

/-- Settles O28: the cleared registers hold zeros and identities, and clearing them again changes nothing. -/
theorem zeroizeClearsWorkingState : Obligations.ZeroizeClearsWorkingState := fun s =>
  ⟨s.clearWorking.succeed, rfl, rfl, fun i => Vector.getElem_replicate i.isLt, fun j => Vector.getElem_replicate j.isLt,
    fun k => Vector.getElem_replicate k.isLt, fun k => Vector.getElem_replicate k.isLt, rfl⟩

end Sys2Proof.Claims

/-!
SUPPORT. Proofs about the field commands (spec/41_field.md): what each writes on a locked core, stated through its own
meaning `exec…`, and what the invariant says of the moduli.
-/

namespace Sys2Proof.Machine

open Sys2Proof Sys2Proof.Claims

/-! ### The arithmetic of R13, R18 and R143 -/

theorem residue_add (x y m : Nat) : residue ((x : Int) + (y : Int)) m = (x + y) % m := by
  rw [← Nat.cast_add, residue_natCast]

theorem residue_mul (x y m : Nat) : residue ((x : Int) * (y : Int)) m = x * y % m := by
  rw [← Nat.cast_mul, residue_natCast]

theorem inverse_mod (x m : Nat) : inverse (x % m) m = inverse x m := by
  rw [inverse, inverse, Nat.mod_mod]

theorem inverseOrRaise_of_some {x m v : Nat} (h : inverse x m = some v) : inverseOrRaise x m = .ok v := by
  rw [inverseOrRaise, h]

theorem inverseOrRaise_of_none {x m : Nat} (h : inverse x m = none) : inverseOrRaise x m = .error noInverse := by
  rw [inverseOrRaise, h]

theorem gcd_two_pow_mod_eq_one {m : Nat} (w : Nat) (hodd : m % 2 = 1) : Nat.gcd (2 ^ w % m) m = 1 := by
  rw [← Nat.gcd_rec]
  exact (Nat.coprime_two_right.mpr (Nat.odd_iff.mpr hodd)).pow_right w

/-- The Montgomery product for an odd modulus: the residue that `2 ^ w` carries to the product (R143). -/
theorem montgomery_of_odd {m : Nat} (w x y : Nat) (hm : 3 ≤ m) (hodd : m % 2 = 1) :
    ∃ v, montgomery w x y m = .ok v ∧ v < m ∧ v * 2 ^ w % m = x * y % m := by
  obtain ⟨r, hr, -, -, hinv, -⟩ :=
    (inverseIsUniqueInverse (2 ^ w) m (by omega)).1 (gcd_two_pow_mod_eq_one w hodd)
  refine ⟨x * y * r % m, by rw [montgomery, inverseOrRaise_of_some hr], Nat.mod_lt _ (by omega), ?_⟩
  have hone : 2 ^ w * r ≡ 1 [MOD m] := hinv.trans (Nat.mod_eq_of_lt (by omega)).symm
  calc x * y * r % m * 2 ^ w ≡ x * y * r * 2 ^ w [MOD m] := (Nat.mod_modEq _ _).mul_right _
    _ = x * y * (2 ^ w * r) := by ring
    _ ≡ x * y * 1 [MOD m] := hone.mul_left _
    _ = x * y := mul_one _

/-! ### What a field command writes (R140) -/

/-- The outcome is a next state in which `v` is in `S[rd]` and `STATUS` is all else that changed. -/
def WritesScalar (s : State) (rd : Fin 8) (v : Nat) (r : Result) : Prop :=
  ∃ t, r = .next t ∧ ScalarWritten s t rd v ∧ t.port = s.port

theorem State.modulus_lt (s : State) (m : ModSel) : s.modulus m < 2 ^ 256 := by
  cases m with
  | p => exact s.p.isLt
  | n => exact s.n.isLt

section

variable {s : State} (rd ra rb : Fin 8) {m : ModSel} (hl : s.status.locked = true)

include hl

theorem whenLocked_finishScalar_writes {v : Nat} {r : Except CmdError Nat} (hr : r = .ok v) (hv : v < s.modulus m) :
    WritesScalar s rd v (s.whenLocked (s.finishScalar rd r)) := by
  have hget : (s.sreg.set rd (toWord v))[rd].toNat = v := by
    rw [Fin.getElem_fin, Vector.getElem_set_self, toWord_toNat (hv.trans (s.modulus_lt m))]
  rw [hr, State.whenLocked_locked _ hl]
  exact ⟨(s.setS rd v).succeed, rfl, ⟨hget, rfl⟩, rfl⟩

theorem fieldCommand_writes {v u : Nat} (hu : u = v) (hv : v < s.modulus m) :
    WritesScalar s rd v (s.fieldCommand rd u) :=
  whenLocked_finishScalar_writes rd hl (congrArg _ hu) hv

theorem execModadd_writes (hm : 0 < s.modulus m) :
    WritesScalar s rd ((s.readS ra + s.readS rb) % s.modulus m) (execModadd rd ra rb m s) :=
  fieldCommand_writes rd hl (residue_add _ _ _) (Nat.mod_lt _ hm)

theorem execModsub_writes (hm : 0 < s.modulus m) :
    WritesScalar s rd (residue ((s.readS ra : Int) - (s.readS rb : Int)) (s.modulus m)) (execModsub rd ra rb m s) :=
  fieldCommand_writes rd hl rfl (residue_lt hm)

theorem execModmul_writes (hm : 0 < s.modulus m) :
    WritesScalar s rd (s.readS ra * s.readS rb % s.modulus m) (execModmul rd ra rb m s) :=
  fieldCommand_writes rd hl (residue_mul _ _ _) (Nat.mod_lt _ hm)

theorem execModred_writes (hm : 0 < s.modulus m) :
    WritesScalar s rd (s.readS ra % s.modulus m) (execModred rd ra m s) :=
  fieldCommand_writes rd hl rfl (Nat.mod_lt _ hm)

theorem execModexp_writes (hm : 0 < s.modulus m) :
    WritesScalar s rd (s.readS ra ^ s.readS rb % s.modulus m) (execModexp rd ra rb m s) :=
  fieldCommand_writes rd hl (modexp_eq _ _ hm) (Nat.mod_lt _ hm)

theorem execLegendre_writes (hm : 0 < s.modulus m) :
    WritesScalar s rd (s.readS ra ^ ((s.modulus m - 1) / 2) % s.modulus m) (execLegendre rd ra m s) :=
  fieldCommand_writes rd hl (legendre_eq _ hm) (Nat.mod_lt _ hm)

/-- MMUL on an odd modulus (R147). -/
theorem execMmul_writes (hm : 3 ≤ s.modulus m) (hodd : s.modulus m % 2 = 1) :
    ∃ v, WritesScalar s rd v (execMmul rd ra rb m s) ∧ v < s.modulus m ∧
      v * 2 ^ s.build.w % s.modulus m = s.readS ra * s.readS rb % s.modulus m := by
  obtain ⟨v, hv, hlt, hmul⟩ := montgomery_of_odd s.build.w (s.readS ra) (s.readS rb) hm hodd
  exact ⟨v, whenLocked_finishScalar_writes rd hl hv hlt, hlt, hmul⟩

/-- MODINV where the inverse exists (R150). -/
theorem execModinv_writes (hm : 2 ≤ s.modulus m) (hgcd : Nat.gcd (s.readS ra % s.modulus m) (s.modulus m) = 1) :
    ∃ v, WritesScalar s rd v (execModinv rd ra m s) ∧ 1 ≤ v ∧ v ≤ s.modulus m - 1 ∧
      s.readS ra * v % s.modulus m = 1 := by
  obtain ⟨v, hv, h1, hle, hmul, -⟩ := (inverseIsUniqueInverse (s.readS ra) _ hm).1 hgcd
  have hr := inverseOrRaise_of_some ((inverse_mod _ _).trans hv)
  exact ⟨v, whenLocked_finishScalar_writes rd hl hr (by omega : v < s.modulus m), h1, hle, hmul⟩

/-- MODINV where no inverse exists (R150). -/
theorem execModinv_of_no_inverse (hm : 2 ≤ s.modulus m)
    (hgcd : Nat.gcd (s.readS ra % s.modulus m) (s.modulus m) ≠ 1) :
    execModinv rd ra m s = .next (s.raise noInverse) := by
  have hnone : inverse (s.readS ra) (s.modulus m) = none := (inverseIsUniqueInverse (s.readS ra) _ hm).2.1 hgcd
  rw [execModinv, State.whenLocked_locked _ hl, inverseOrRaise_of_none ((inverse_mod _ _).trans hnone)]
  rfl

end

/-! ### The moduli of a locked core (R140) -/

/-- A bit length that is a multiple of 4 leaves no odd number between 3 and 7. -/
theorem nine_le_of_odd_of_bitlength {n : Nat} (hodd : n % 2 = 1) (h3 : 3 ≤ n) (hlen : bitlength n % 4 = 0) :
    9 ≤ n := by
  obtain ⟨h1, hpow, -⟩ := (bitlength_eq_iff (by omega : 0 < n)).mp rfl
  have h8 : 2 ^ 3 ≤ 2 ^ (bitlength n - 1) := Nat.pow_le_pow_right (by omega) (by omega)
  omega

end Sys2Proof.Machine

namespace Sys2Proof.Claims

open Sys2Proof Sys2Proof.Machine

/-! ### The field commands, settled -/

/-- Settles O29: each of the four values is a residue, which the command writes. -/
theorem fieldArithmeticResults : Obligations.FieldArithmeticResults := by
  intro s rd ra rb m hl modulus x y h0
  have hmod : modulus = s.modulus m := by cases m <;> rfl
  rw [hmod] at h0 ⊢
  obtain ⟨t, ht, hw, hp⟩ := execModsub_writes rd ra rb hl h0
  exact ⟨execModadd_writes rd ra rb hl h0, ⟨t, ht, hp, hw⟩, execModmul_writes rd ra rb hl h0,
    execModred_writes rd ra hl h0⟩

/-- Settles O30: `modexp` and `legendre` are the powers of R19 and R20. -/
theorem fieldPowerResults : Obligations.FieldPowerResults := by
  intro s rd ra rb m hl modulus x y h2
  have hmod : modulus = s.modulus m := by cases m <;> rfl
  rw [hmod] at h2 ⊢
  obtain ⟨t, ht, hw, hp⟩ := execLegendre_writes rd ra hl (by omega : 0 < s.modulus m)
  exact ⟨execModexp_writes rd ra rb hl (by omega), t, ht, hp, hw⟩

/-- Settles O31: the operand has the inverse of its residue, which exists where the divisor is 1. -/
theorem modinvResults : Obligations.ModinvResults := by
  intro s rd ra m hl modulus x h2
  have hmod : modulus = s.modulus m := by cases m <;> rfl
  rw [hmod] at h2 ⊢
  refine ⟨fun hgcd => ?_, fun hgcd => execModinv_of_no_inverse rd ra hl h2 hgcd⟩
  obtain ⟨v, ⟨t, ht, hw, hp⟩, hv⟩ := execModinv_writes rd ra hl h2 hgcd
  exact ⟨t, v, ht, hw, hp, hv⟩

/-- Settles O32: an odd modulus has the inverse of `2 ^ W` that the Montgomery product multiplies by. -/
theorem montgomeryProductResult : Obligations.MontgomeryProductResult := by
  intro s rd ra rb m hl modulus h3 hodd
  have hmod : modulus = s.modulus m := by cases m <;> rfl
  rw [hmod] at h3 hodd ⊢
  obtain ⟨v, ⟨t, ht, hw, hp⟩, hv⟩ := execMmul_writes rd ra rb hl h3 hodd
  exact ⟨t, v, ht, hw, hp, hv⟩

/-- Settles O58: a locked core has passed the checks of `INIT`, and `NBITS` is the bit length of `N`. -/
theorem lockedModuliAreOdd : Obligations.LockedModuliAreOdd := by
  rintro s ⟨-, -, hlock, -⟩ hl
  obtain ⟨hc, hnb, -⟩ := (State.lockOk_iff_of_locked hl).mp hlock
  obtain ⟨⟨hp, hp5⟩, -, -, ⟨hn, hn3⟩, hlen, -⟩ := (domainFailure_eq_none_iff s).mp hc
  have h256 : bitlength s.n.toNat ≤ 256 := bitlength_le_iff.mpr s.n.isLt
  have hexw : s.hexw = bitlength s.n.toNat / 4 := by rw [State.hexw, hnb]
  exact ⟨hp, hp5, hn, nine_le_of_odd_of_bitlength hn hn3 hlen, by omega, by omega⟩

end Sys2Proof.Claims

/-!
SUPPORT. Proofs about MODSQRT (spec/42_sqrt.md): the command on a locked core, from what the solver answers.
-/

namespace Sys2Proof.Machine

open Sys2Proof Sys2Proof.Claims

/-! ### From the solver's answer to the command's outcome (R166) -/

section

variable {s : State} (rd ra : Fin 8) {m : ModSel} {port : Port} (hl : s.status.locked = true)

include hl

/-- MODSQRT writes the root that the solver answers and leaves the port as the solver does. -/
theorem execModsqrt_of_root {v : Nat} (hr : sqrt (s.readS ra) (s.modulus m) s.drawLimit s.port = (.ok v, port))
    (hv : v < s.modulus m) :
    ∃ t, execModsqrt rd ra m s = .next t ∧ ScalarWritten s t rd v ∧ t.port = port := by
  have hl' : (s.setPort port).status.locked = true := hl
  obtain ⟨t, ht, hw, hp⟩ := whenLocked_finishScalar_writes (s := s.setPort port) (m := m) rd hl' rfl hv
  rw [State.whenLocked_locked _ hl'] at ht
  exact ⟨t, by rw [execModsqrt, State.whenLocked_locked _ hl, hr, ht], hw, hp⟩

/-- MODSQRT raises the error that the solver answers, the solver's draws spent. -/
theorem execModsqrt_of_error {e : CmdError}
    (hr : sqrt (s.readS ra) (s.modulus m) s.drawLimit s.port = (.error e, port)) :
    execModsqrt rd ra m s = .next ((s.setPort port).raise e) := by
  rw [execModsqrt, State.whenLocked_locked _ hl, hr]
  rfl

end

end Sys2Proof.Machine

namespace Sys2Proof.Claims

open Sys2Proof Sys2Proof.Machine

/-! ### The square-root solver, settled -/

/-- Settles O33: the solver answers a root below the modulus, which the command writes. -/
theorem modsqrtReturnsRoot : Obligations.ModsqrtReturnsRoot := by
  intro s rd ra m hl modulus x hprime h5 hres hsampler
  have hmod : modulus = s.modulus m := by cases m <;> rfl
  rw [hmod] at hprime h5 hres hsampler ⊢
  obtain ⟨v, port, hv, hlt, hsq, hzero, hdraws⟩ := sqrt_of_residue hprime (by omega) hres hsampler
  obtain ⟨t, ht, hw, rfl⟩ := execModsqrt_of_root rd ra hl hv hlt
  exact ⟨t, v, ht, hw, hlt, hsq, hzero, hdraws⟩

/-- Settles O34: both errors are the solver's answers; the Euler test comes before any draw. -/
theorem modsqrtErrors : Obligations.ModsqrtErrors := by
  intro s rd ra m hl modulus x limit h5 h0
  have hmod : modulus = s.modulus m := by cases m <;> rfl
  rw [hmod] at h5 h0 ⊢
  have hpos : 0 < s.modulus m := by omega
  exact ⟨fun he => execModsqrt_of_error rd ra hl (sqrt_of_euler_ne_one hpos h0 he _ _),
    fun he hn => execModsqrt_of_error rd ra hl (sqrt_of_noneUsable hpos h0 he hn)⟩

end Sys2Proof.Claims

/-!
SUPPORT. Proofs about the point law and the point commands (spec/43_point.md).  For a prime modulus the two formulas of
R173 and R174 are Mathlib's addition on the short Weierstrass curve over the residue field, which gives closure.
-/

namespace Sys2Proof.Machine

open Sys2Proof Sys2Proof.Claims

/-! ### The branches of `Add` and `Dbl` (R173, R174) -/

section

variable {p : Nat} (a : Nat)

@[simp] theorem double_infinity : double p a .infinity = .ok .infinity := rfl

@[simp] theorem double_finite_zero (x : Nat) : double p a (.finite x 0) = .ok .infinity := rfl

theorem double_of_inverse {x y v : Nat} (hy : y ≠ 0) (hv : inverse (2 * y % p) p = some v) :
    double p a (.finite x y) = .ok (thirdPoint p ((3 * x * x + a) * v % p) x y x) := by
  rw [double, if_neg hy, inverseOrRaise_of_some hv]

theorem double_of_no_inverse {x y : Nat} (hy : y ≠ 0) (hv : inverse (2 * y % p) p = none) :
    double p a (.finite x y) = .error noInverse := by
  rw [double, if_neg hy, inverseOrRaise_of_none hv]

@[simp] theorem add_infinity_left (q : Point) : add p a .infinity q = .ok q := rfl

@[simp] theorem add_infinity_right (q : Point) : add p a q .infinity = .ok q := by cases q <;> rfl

@[simp] theorem add_self (q : Point) : add p a q q = double p a q := by
  cases q with
  | infinity => rfl
  | finite x y => rw [add, if_pos rfl, if_pos rfl]

theorem add_of_y_ne {x y1 y2 : Nat} (hy : y1 ≠ y2) : add p a (.finite x y1) (.finite x y2) = .ok .infinity := by
  rw [add, if_pos rfl, if_neg hy]

theorem add_of_inverse {x1 y1 x2 y2 v : Nat} (hx : x1 ≠ x2) (hv : inverse (residue ((x2 : Int) - x1) p) p = some v) :
    add p a (.finite x1 y1) (.finite x2 y2) =
      .ok (thirdPoint p (residue (((y2 : Int) - y1) * v) p) x1 y1 x2) := by
  rw [add, if_neg hx, inverseOrRaise_of_some hv]

theorem add_of_no_inverse {x1 y1 x2 y2 : Nat} (hx : x1 ≠ x2) (hv : inverse (residue ((x2 : Int) - x1) p) p = none) :
    add p a (.finite x1 y1) (.finite x2 y2) = .error noInverse := by
  rw [add, if_neg hx, inverseOrRaise_of_none hv]

end

/-! ### The rounds of `ScalarMul` (R178) -/

/-- A round of the loop that no error ends. -/
theorem scalarMulLoop_succ {p a rounds k : Nat} {acc addend acc' addend' : Point}
    (hsum : (if k % 2 = 1 then add p a acc addend else .ok acc) = .ok acc') (hdbl : double p a addend = .ok addend') :
    scalarMulLoop p a (rounds + 1) k acc addend = scalarMulLoop p a rounds (k / 2) acc' addend' := by
  rw [scalarMulLoop, hsum, hdbl]

theorem bitlength_of_pos {k : Nat} (hk : 0 < k) : bitlength k = bitlength (k / 2) + 1 := by
  rw [bitlength, if_neg hk.ne', Nat.log2_def, bitlength]
  split <;> split <;> omega

/-- The identity stays the identity, whatever the scalar (R181). -/
theorem scalarMulLoop_infinity (p a : Nat) : ∀ rounds k : Nat,
    scalarMulLoop p a rounds k .infinity .infinity = .ok .infinity := by
  intro rounds
  induction rounds with
  | zero => exact fun _ => rfl
  | succ rounds ih => exact fun k => (scalarMulLoop_succ (by simp) rfl).trans (ih (k / 2))

/-- The loop of `ScalarMul` with the rounds that the scalar left to it needs. -/
def doubleAndAdd (p a k : Nat) (acc addend : Point) : Except CmdError Point :=
  scalarMulLoop p a (bitlength k) k acc addend

theorem doubleAndAdd_zero (p a : Nat) (acc addend : Point) : doubleAndAdd p a 0 acc addend = .ok acc := rfl

theorem doubleAndAdd_of_pos {p a k : Nat} {acc addend acc' addend' : Point} (hk : 0 < k)
    (hsum : (if k % 2 = 1 then add p a acc addend else .ok acc) = .ok acc') (hdbl : double p a addend = .ok addend') :
    doubleAndAdd p a k acc addend = doubleAndAdd p a (k / 2) acc' addend' := by
  rw [doubleAndAdd, bitlength_of_pos hk, scalarMulLoop_succ hsum hdbl, doubleAndAdd]

/-! ### Residues in the integers and in the residue ring -/

theorem intCast_residue (x : Int) {m : Nat} (hm : 0 < m) : ((residue x m : Nat) : Int) = x % m :=
  Int.toNat_of_nonneg (Int.emod_nonneg x (by omega))

theorem natCast_residue (x : Int) {m : Nat} (hm : 0 < m) : ((residue x m : Nat) : ZMod m) = x := by
  rw [← Int.cast_natCast, intCast_residue x hm, ZMod.intCast_mod]

theorem residue_congr {x y : Int} {m : Nat} (h : (x : ZMod m) = y) : residue x m = residue y m :=
  congrArg Int.toNat ((ZMod.intCast_eq_intCast_iff x y m).mp h)

/-- The third point of a line, in the residue ring. -/
theorem thirdPoint_coordinates {p : Nat} (lam x1 y1 x2 : Nat) (hp : 0 < p) :
    ∃ x3 y3, thirdPoint p lam x1 y1 x2 = .finite x3 y3 ∧ (x3 : ZMod p) = lam * lam - x1 - x2 ∧
      (y3 : ZMod p) = lam * (x1 - (lam * lam - x1 - x2)) - y1 := by
  have hx : ((residue ((lam : Int) * lam - x1 - x2) p : Nat) : ZMod p) = lam * lam - x1 - x2 := by
    rw [natCast_residue _ hp]
    push_cast
    rfl
  refine ⟨_, _, rfl, hx, ?_⟩
  rw [natCast_residue _ hp]
  push_cast
  rw [hx]

/-! ### The short Weierstrass curve over a field (R22) -/

section

variable {F : Type} [Field F] (a b : F)

/-- The curve of R22 as one of Mathlib's. -/
def shortCurve : WeierstrassCurve.Affine F := { a₁ := 0, a₂ := 0, a₃ := 0, a₄ := a, a₆ := b }

theorem shortCurve_equation_iff (x y : F) : (shortCurve a b).Equation x y ↔ y * y = x * x * x + a * x + b := by
  rw [WeierstrassCurve.Affine.equation_iff]
  simp [shortCurve, pow_succ]

theorem shortCurve_negY (x y : F) : (shortCurve a b).negY x y = -y := by
  simp [WeierstrassCurve.Affine.negY, shortCurve]

theorem shortCurve_slope_tangent [DecidableEq F] {x y : F} (hy : y ≠ -y) :
    (shortCurve a b).slope x x y y = (3 * x ^ 2 + a) / (2 * y) := by
  rw [← shortCurve_negY a b x] at hy
  rw [WeierstrassCurve.Affine.slope_of_Y_ne rfl hy, shortCurve_negY]
  simp [shortCurve, two_mul]

/-- The sum by the formula of R173 and R174, for the slope of the secant or the tangent, is on the curve. -/
theorem shortCurve_equation_add [DecidableEq F] {x1 y1 x2 y2 lam : F} (h1 : (shortCurve a b).Equation x1 y1)
    (h2 : (shortCurve a b).Equation x2 y2) (hxy : ¬ (x1 = x2 ∧ y1 = -y2))
    (hlam : lam = (shortCurve a b).slope x1 x2 y1 y2) :
    (shortCurve a b).Equation (lam * lam - x1 - x2) (lam * (x1 - (lam * lam - x1 - x2)) - y1) := by
  rw [← shortCurve_negY a b x2] at hxy
  have h := WeierstrassCurve.Affine.equation_add h1 h2 hxy
  rw [← hlam, WeierstrassCurve.Affine.addY, shortCurve_negY, WeierstrassCurve.Affine.negAddY] at h
  have hx : (shortCurve a b).addX x1 x2 lam = lam * lam - x1 - x2 := by
    simp [WeierstrassCurve.Affine.addX, shortCurve, pow_two]
  rw [hx] at h
  convert h using 1
  ring

end

/-! ### The formulas over a prime field -/

section

variable {p : Nat} [hp : Fact p.Prime]

/-- The inverse of a residue other than 0 is the inverse of the field (R18). -/
theorem exists_inverse_eq_inv {x : Nat} (hx : (x : ZMod p) ≠ 0) :
    ∃ v, inverse x p = some v ∧ (v : ZMod p) = (x : ZMod p)⁻¹ := by
  obtain ⟨v, hv, hmul⟩ := exists_inverse_of_not_dvd hp.out fun h => hx ((ZMod.natCast_eq_zero_iff x p).mpr h)
  exact ⟨v, hv, eq_inv_of_mul_eq_one_right hmul⟩

/-- Points over different abscissas are added along the secant (R173). -/
theorem add_eq_secant (a : Nat) {x1 y1 x2 y2 : Nat} (h1 : x1 < p) (h2 : x2 < p) (hx : x1 ≠ x2) :
    ∃ lam : Nat, lam < p ∧ (lam : ZMod p) = (y1 - y2) / (x1 - x2) ∧
      add p a (.finite x1 y1) (.finite x2 y2) = .ok (thirdPoint p lam x1 y1 x2) := by
  have hp0 : 0 < p := hp.out.pos
  have hd : ((residue ((x2 : Int) - x1) p : Nat) : ZMod p) = x2 - x1 := by
    rw [natCast_residue _ hp0, Int.cast_sub, Int.cast_natCast, Int.cast_natCast]
  have hne : ((x2 : ZMod p) - x1) ≠ 0 := sub_ne_zero.mpr fun h => hx (eq_of_natCast_eq h h2 h1).symm
  obtain ⟨v, hv, hinv⟩ := exists_inverse_eq_inv (hd ▸ hne)
  refine ⟨residue (((y2 : Int) - y1) * v) p, residue_lt hp0, ?_, add_of_inverse a hx hv⟩
  rw [natCast_residue _ hp0, ← neg_sub (y2 : ZMod p), ← neg_sub (x2 : ZMod p), neg_div_neg_eq,
    div_eq_mul_inv, ← hd, ← hinv]
  push_cast
  rfl

/-- A coordinate other than 0 differs from its negative. -/
theorem natCast_ne_neg {y : Nat} (h3 : 3 ≤ p) (hy : y ≠ 0) (hlt : y < p) : (y : ZMod p) ≠ -y := by
  intro h
  have hdvd : p ∣ 2 * y := by
    rw [← ZMod.natCast_eq_zero_iff, Nat.cast_mul, Nat.cast_two, two_mul]
    exact eq_neg_iff_add_eq_zero.mp h
  rcases hp.out.dvd_mul.mp hdvd with h2 | hy'
  · exact absurd (Nat.le_of_dvd (by omega) h2) (by omega)
  · exact absurd (Nat.le_of_dvd (by omega) hy') (by omega)

/-- A point that is not its own opposite is doubled along the tangent (R174). -/
theorem double_eq_tangent (a : Nat) {x y : Nat} (hy : (y : ZMod p) ≠ -y) :
    ∃ lam : Nat, (lam : ZMod p) = (3 * x ^ 2 + a) / (2 * y) ∧
      double p a (.finite x y) = .ok (thirdPoint p lam x y x) := by
  have hd : ((2 * y % p : Nat) : ZMod p) = 2 * y := by rw [ZMod.natCast_mod, Nat.cast_mul, Nat.cast_two]
  have hne : (2 : ZMod p) * y ≠ 0 := fun h => hy (eq_neg_iff_add_eq_zero.mpr ((two_mul _).symm.trans h))
  obtain ⟨v, hv, hinv⟩ := exists_inverse_eq_inv (hd ▸ hne)
  refine ⟨(3 * x * x + a) * v % p, ?_, double_of_inverse a (fun h => hne (by simp [h])) hv⟩
  rw [ZMod.natCast_mod, div_eq_mul_inv, ← hd, ← hinv]
  push_cast
  ring

/-! ### Closure of the point law (R176) -/

theorem onCurve_iff_equation {a b x y : Nat} :
    OnCurve p a b (.finite x y) ↔ (shortCurve (a : ZMod p) b).Equation x y := by
  rw [shortCurve_equation_iff, OnCurve, ← Nat.ModEq, ← ZMod.natCast_eq_natCast_iff]
  push_cast
  rfl

/-- The third point of a line through two points of the curve that are not opposite is on the curve (R176). -/
theorem thirdPoint_onCurve {a b lam x1 y1 x2 y2 : Nat} (h1 : OnCurve p a b (.finite x1 y1))
    (h2 : OnCurve p a b (.finite x2 y2)) (hxy : ¬ ((x1 : ZMod p) = x2 ∧ (y1 : ZMod p) = -y2))
    (hlam : (lam : ZMod p) = (shortCurve (a : ZMod p) b).slope x1 x2 y1 y2) :
    OnCurve p a b (thirdPoint p lam x1 y1 x2) := by
  obtain ⟨x3, y3, h3, hx3, hy3⟩ := thirdPoint_coordinates lam x1 y1 x2 hp.out.pos
  rw [h3, onCurve_iff_equation, hy3, hx3]
  exact shortCurve_equation_add _ _ (onCurve_iff_equation.mp h1) (onCurve_iff_equation.mp h2) hxy hlam

/-- For a prime modulus `Dbl` answers a point in range, on the curve of its operand. -/
theorem double_closed (a : Nat) (h3 : 3 ≤ p) {q : Point} (hq : PointInRange p q) :
    ∃ c, double p a q = .ok c ∧ PointInRange p c ∧ ∀ b, OnCurve p a b q → OnCurve p a b c := by
  cases q with
  | infinity => exact ⟨.infinity, rfl, trivial, fun _ => id⟩
  | finite x y =>
    rcases eq_or_ne y 0 with rfl | hy
    · exact ⟨.infinity, rfl, trivial, fun _ _ => trivial⟩
    · have hneg := natCast_ne_neg h3 hy hq.2
      obtain ⟨lam, hlam, hdbl⟩ := double_eq_tangent a (x := x) hneg
      refine ⟨_, hdbl, thirdPoint_inRange _ _ _ _ hp.out.pos, fun b hb => ?_⟩
      exact thirdPoint_onCurve hb hb (fun h => hneg h.2) (hlam.trans (shortCurve_slope_tangent _ _ hneg).symm)

/-- For a prime modulus `Add` answers a point in range, on the curve of its operands. -/
theorem add_closed (a : Nat) (h3 : 3 ≤ p) {p1 p2 : Point} (h1 : PointInRange p p1) (h2 : PointInRange p p2) :
    ∃ c, add p a p1 p2 = .ok c ∧ PointInRange p c ∧
      ∀ b, OnCurve p a b p1 → OnCurve p a b p2 → OnCurve p a b c := by
  cases p1 with
  | infinity => exact ⟨p2, rfl, h2, fun _ _ => id⟩
  | finite x1 y1 =>
    cases p2 with
    | infinity => exact ⟨.finite x1 y1, rfl, h1, fun _ h _ => h⟩
    | finite x2 y2 =>
      rcases eq_or_ne x1 x2 with rfl | hx
      · rcases eq_or_ne y1 y2 with rfl | hy
        · obtain ⟨c, hc, hr, hcurve⟩ := double_closed a h3 h1
          exact ⟨c, (add_self a _).trans hc, hr, fun b hb _ => hcurve b hb⟩
        · exact ⟨.infinity, add_of_y_ne a hy, trivial, fun _ _ _ => trivial⟩
      · have hne : (x1 : ZMod p) ≠ x2 := fun h => hx (eq_of_natCast_eq h h1.1 h2.1)
        obtain ⟨lam, -, hlam, hadd⟩ := add_eq_secant a (y1 := y1) (y2 := y2) h1.1 h2.1 hx
        refine ⟨_, hadd, thirdPoint_inRange _ _ _ _ hp.out.pos, fun b hb1 hb2 => ?_⟩
        exact thirdPoint_onCurve hb1 hb2 (fun h => hne h.1)
          (hlam.trans (WeierstrassCurve.Affine.slope_of_X_ne hne).symm)

/-! ### Commutativity (R176) -/

/-- The third point of a line does not depend on which of the two points is named first. -/
theorem thirdPoint_comm {lam x1 y1 x2 y2 : Nat} (h : (lam : ZMod p) * (x1 - x2) = y1 - y2) :
    thirdPoint p lam x1 y1 x2 = thirdPoint p lam x2 y2 x1 := by
  rw [thirdPoint, thirdPoint, sub_right_comm _ (x1 : Int) (x2 : Int)]
  refine congrArg _ (residue_congr ?_)
  push_cast
  linear_combination h

theorem add_comm_of_inRange (a : Nat) {p1 p2 : Point} (h1 : PointInRange p p1) (h2 : PointInRange p p2) :
    add p a p1 p2 = add p a p2 p1 := by
  cases p1 with
  | infinity => simp
  | finite x1 y1 =>
    cases p2 with
    | infinity => simp
    | finite x2 y2 =>
      rcases eq_or_ne x1 x2 with rfl | hx
      · rcases eq_or_ne y1 y2 with rfl | hy
        · rfl
        · rw [add_of_y_ne a hy, add_of_y_ne a hy.symm]
      · obtain ⟨lam, hlt, hlam, hadd⟩ := add_eq_secant a (y1 := y1) (y2 := y2) h1.1 h2.1 hx
        obtain ⟨lam', hlt', hlam', hadd'⟩ := add_eq_secant a (y1 := y2) (y2 := y1) h2.1 h1.1 hx.symm
        have heq : lam' = lam := by
          refine eq_of_natCast_eq (hlam'.trans (Eq.trans ?_ hlam.symm)) hlt' hlt
          rw [← neg_sub (y1 : ZMod p), ← neg_sub (x1 : ZMod p), neg_div_neg_eq]
        have hne : (x1 : ZMod p) - x2 ≠ 0 := sub_ne_zero.mpr fun h => hx (eq_of_natCast_eq h h1.1 h2.1)
        rw [hadd, hadd', heq, thirdPoint_comm ((eq_div_iff hne).mp hlam)]

/-! ### `ScalarMul` answers for a prime modulus (R178) -/

theorem scalarMulLoop_total (a : Nat) (h3 : 3 ≤ p) : ∀ (rounds k : Nat) (acc addend : Point),
    PointInRange p acc → PointInRange p addend →
    ∃ c, scalarMulLoop p a rounds k acc addend = .ok c ∧ PointInRange p c := by
  intro rounds
  induction rounds with
  | zero => exact fun _ acc _ hacc _ => ⟨acc, rfl, hacc⟩
  | succ rounds ih =>
    intro k acc addend hacc hadd
    obtain ⟨addend', hdbl, hadd', -⟩ := double_closed a h3 hadd
    obtain ⟨acc', hsum, hacc'⟩ :
        ∃ c, (if k % 2 = 1 then add p a acc addend else .ok acc) = .ok c ∧ PointInRange p c := by
      split
      · obtain ⟨c, hc, hr, -⟩ := add_closed a h3 hacc hadd
        exact ⟨c, hc, hr⟩
      · exact ⟨acc, rfl, hacc⟩
    rw [scalarMulLoop_succ hsum hdbl]
    exact ih _ _ _ hacc' hadd'

theorem scalarMul_total (a k : Nat) (h3 : 3 ≤ p) {q : Point} (hq : PointInRange p q) :
    ∃ c, scalarMul p a k q = .ok c ∧ PointInRange p c :=
  scalarMulLoop_total a h3 _ _ _ _ trivial hq

end

/-! ### The point commands on a locked core (R171, R172, R175, R177, R179) -/

theorem PointReg.value_ofPoint {p : Nat} {c : Point} (hc : PointInRange p c) (hp : p < 2 ^ 256) :
    (PointReg.ofPoint c).value = c := by
  cases c with
  | infinity => rfl
  | finite x y => exact value_ofPoint_finite (hc.1.trans hp) (hc.2.trans hp)

theorem readPoint_of_not_inRange {s : State} {q : PointReg} (h : ¬ InRange s q) :
    s.readPoint q = .error pointRange := by
  rcases s.readPoint_cases q with ⟨hr, -⟩ | ⟨-, h'⟩
  · exact absurd hr h
  · exact h'

theorem pointInRange_of_inRange {s : State} {q : PointReg} (h : InRange s q) : PointInRange s.p.toNat q.value :=
  (readPoint_answer s q).value (readPoint_of_inRange h)

/-- PDBL is PADD of the operand with itself, in every state (R177). -/
theorem execPdbl_eq_execPadd (rd : Fin 4) (ra : BitVec 4) (s : State) : execPdbl rd ra s = execPadd rd ra ra s := by
  rw [execPdbl, execPadd]
  rcases h : s.pointSource ra with _ | q
  · rw [State.withSource_none _ h, State.withSource_none _ h]
  · rw [State.withSource_some _ h, State.withSource_some _ h, State.withSource_some _ h]
    rcases s.readPoint q with e | p1
    · rfl
    · exact congrArg (s.whenLocked <| s.finishPoint rd ·) (add_self _ p1).symm

/-- The outcome is a next state in which `c` is in `PT[rd]`, the port is as given and `STATUS` is all else that
changed. -/
def WritesPoint (s : State) (rd : Fin 4) (c : Point) (port : Port) (r : Result) : Prop :=
  ∃ t, r = .next t ∧ PointWritten s t rd c ∧ t.port = port

theorem finishPoint_writes {s : State} (rd : Fin 4) {c : Point} (port : Port) (hc : PointInRange s.p.toNat c) :
    WritesPoint s rd c port ((s.setPort port).finishPoint rd (.ok c)) := by
  have hget : (s.pt.set rd (PointReg.ofPoint c))[rd] = PointReg.ofPoint c := Vector.getElem_set_self ..
  refine ⟨((s.setPort port).setPt rd c).succeed, rfl, ⟨?_, ?_, ?_⟩, rfl⟩
  · exact (congrArg PointReg.value hget).trans (PointReg.value_ofPoint hc s.p.isLt)
  · rintro rfl
    exact hget
  · have hpt : ((s.setPort port).setPt rd c).succeed.pt[rd] = PointReg.ofPoint c := hget
    rw [hpt]
    rfl

section

variable {s : State} (rd : Fin 4) {ra rb : BitVec 4} {qa qb : PointReg} (hl : s.status.locked = true)
  (ha : s.pointSource ra = some qa)

include hl ha

theorem execPdbl_of_inRange (h : InRange s qa) :
    execPdbl rd ra s = s.finishPoint rd (double s.p.toNat s.a.toNat qa.value) := by
  rw [execPdbl, State.withSource_some _ ha, State.whenLocked_locked _ hl, readPoint_of_inRange h]

theorem execPsmul_of_inRange (k : Fin 8) (h : InRange s qa) :
    execPsmul rd ra k s = s.finishPoint rd (s.mulPoint (s.readS k) qa.value) := by
  rw [execPsmul, State.withSource_some _ ha, State.whenLocked_locked _ hl, readPoint_of_inRange h]

theorem execPsmul_of_not_inRange (k : Fin 8) (h : ¬ InRange s qa) :
    execPsmul rd ra k s = .next (s.raise pointRange) := by
  rw [execPsmul, State.withSource_some _ ha, State.whenLocked_locked _ hl, readPoint_of_not_inRange h]
  rfl

theorem execPadd_of_inRange (hb : s.pointSource rb = some qb) (h : InRange s qa) (h' : InRange s qb) :
    execPadd rd ra rb s = s.finishPoint rd (s.addPoints qa.value qb.value) := by
  rw [execPadd, State.withSource_some _ ha, State.withSource_some _ hb, State.whenLocked_locked _ hl,
    readPoint_of_inRange h, readPoint_of_inRange h']

theorem execPadd_of_not_inRange (hb : s.pointSource rb = some qb) (h : ¬ InRange s qa ∨ ¬ InRange s qb) :
    execPadd rd ra rb s = .next (s.raise pointRange) := by
  rw [execPadd, State.withSource_some _ ha, State.withSource_some _ hb, State.whenLocked_locked _ hl]
  by_cases hqa : InRange s qa
  · rw [readPoint_of_inRange hqa, readPoint_of_not_inRange (h.resolve_left (not_not_intro hqa))]
    rfl
  · rw [readPoint_of_not_inRange hqa]
    rfl

theorem execPdbl_of_not_inRange (h : ¬ InRange s qa) : execPdbl rd ra s = .next (s.raise pointRange) := by
  rw [execPdbl_eq_execPadd]
  exact execPadd_of_not_inRange rd hl ha ha (.inl h)

end

section

variable {s : State} (rd : Fin 4) (ra : Fin 8) (par : Byte) {port : Port} (hl : s.status.locked = true)

include hl

theorem execPdecomp_of_le (h : s.p.toNat ≤ s.readS ra) :
    execPdecomp rd ra par s = .next (s.raise { kind := .operandRange, info := 1 }) := by
  rw [execPdecomp, State.whenLocked_locked _ hl, if_pos h]

/-- PDECOMP ends with what `Decompress` answers, the draws spent. -/
theorem execPdecomp_of_decompress {r : Except CmdError Point} (h : s.readS ra < s.p.toNat)
    (hr : s.decompress par.toNat (s.readS ra) = (r, port)) :
    execPdecomp rd ra par s = (s.setPort port).finishPoint rd r := by
  rw [execPdecomp, State.whenLocked_locked _ hl, if_neg h.not_ge, hr]

end

/-- One point over `x` at most has a given parity (R172): the ordinates of two points over `x` are equal or sum to an
odd modulus. -/
theorem eq_of_onCurve_of_parity {p a b x y y' par : Nat} (hp : p.Prime) (hodd : p % 2 = 1) (hy : y < p) (hy' : y' < p)
    (hc : OnCurve p a b (.finite x y)) (hc' : OnCurve p a b (.finite x y')) (hpar : y ≠ 0 → y % 2 = par % 2)
    (hpar' : y' ≠ 0 → y' % 2 = par % 2) : y' = y := by
  have : Fact p.Prime := ⟨hp⟩
  have hsq : (y' : ZMod p) * y' = y * y := by exact_mod_cast (ZMod.natCast_eq_natCast_iff _ _ _).mpr (hc'.trans hc.symm)
  rcases mul_self_eq_mul_self_iff.mp hsq with h | h
  · exact eq_of_natCast_eq h hy' hy
  · have hdvd : p ∣ y' + y := by
      rw [← ZMod.natCast_eq_zero_iff, Nat.cast_add]
      exact eq_neg_iff_add_eq_zero.mp h
    rcases Nat.eq_zero_or_pos (y' + y) with h0 | hpos
    · omega
    · have hsum : y' + y = p := Nat.eq_of_dvd_of_lt_two_mul hpos.ne' hdvd (by omega)
      omega

end Sys2Proof.Machine

namespace Sys2Proof.Claims

open Sys2Proof Sys2Proof.Machine

/-! ### The point law and the point commands, settled -/

/-- Settles O36: the third point of a secant or tangent is on the curve. -/
theorem pointLawClosure : Obligations.PointLawClosure := by
  intro p a b p1 p2 hprime h5 h1 h2 hc1 hc2
  have : Fact p.Prime := ⟨hprime⟩
  obtain ⟨c, hc, hr, hcurve⟩ := add_closed a (by omega) h1 h2
  obtain ⟨c', hc', hr', hcurve'⟩ := double_closed a (by omega) h1
  exact ⟨c, c', hc, hr, hcurve b hc1 hc2, hc', hr', hcurve' b hc1⟩

/-- Settles O37: secant and third point are symmetric in the two points. -/
theorem pointAdditionCommutes : Obligations.PointAdditionCommutes := by
  intro p a p1 p2 hprime _ h1 h2
  have : Fact p.Prime := ⟨hprime⟩
  exact add_comm_of_inRange a h1 h2

/-- Settles O38: the point law answers a point in range, which the command writes in canonical form. -/
theorem pointCommandsComplete : Obligations.PointCommandsComplete := by
  intro s rd ra rb k qa qb hl hprime h5 ha hb hqa hqb
  have : Fact (s.p.toNat).Prime := ⟨hprime⟩
  have h3 : 3 ≤ s.p.toNat := by omega
  have h1 := pointInRange_of_inRange hqa
  obtain ⟨sum, hsum, hsumr, -⟩ := add_closed s.a.toNat h3 h1 (pointInRange_of_inRange hqb)
  obtain ⟨dbl, hdbl, hdblr, -⟩ := double_closed s.a.toNat h3 h1
  obtain ⟨mul, hmul, hmulr⟩ := scalarMul_total s.a.toNat s.sreg[k].toNat h3 h1
  obtain ⟨t1, ht1, hw1, hp1⟩ := finishPoint_writes rd s.port hsumr
  obtain ⟨t2, ht2, hw2, hp2⟩ := finishPoint_writes rd s.port hdblr
  obtain ⟨t3, ht3, hw3, hp3⟩ := finishPoint_writes rd s.port hmulr
  refine ⟨⟨t1, sum, ?_, hw1, hp1, hsum⟩, ⟨t2, dbl, ?_, hw2, hp2, hdbl⟩, ⟨t3, mul, ?_, hw3, hp3, hmul⟩⟩
  · exact (execPadd_of_inRange rd hl ha hb hqa hqb).trans ((congrArg _ hsum).trans ht1)
  · exact (execPdbl_of_inRange rd hl ha hqa).trans ((congrArg _ hdbl).trans ht2)
  · exact (execPsmul_of_inRange rd hl ha k hqa).trans ((congrArg _ hmul).trans ht3)

/-- Settles O40: reading the operand raises the error before anything is written. -/
theorem pointOperandOutOfRange : Obligations.PointOperandOutOfRange := by
  intro s rd ra rb k qa qb hl ha hb h
  exact ⟨execPadd_of_not_inRange rd hl ha hb (.inl h), execPadd_of_not_inRange rd hl hb ha (.inr h),
    execPdbl_of_not_inRange rd hl ha h, execPsmul_of_not_inRange rd hl ha k h⟩

/-- Settles O42: the loop needs one round a bit, and no round fails for a prime modulus. -/
theorem scalarMulSmallCases : Obligations.ScalarMulSmallCases := by
  refine ⟨fun p a => ⟨doubleAndAdd p a, doubleAndAdd_zero p a, fun k acc addend hk => ?_, fun _ _ => rfl⟩,
    fun p a q hprime h5 hq => ?_⟩
  · rw [doubleAndAdd, bitlength_of_pos hk, scalarMulLoop]
    rcases (if k % 2 = 1 then add p a acc addend else .ok acc) with e | acc'
    · rfl
    · rcases double p a addend with e | addend' <;> rfl
  · have : Fact p.Prime := ⟨hprime⟩
    have h3 : 3 ≤ p := by omega
    obtain ⟨d, hd, hdr, -⟩ := double_closed a h3 hq
    obtain ⟨d2, hd2, -⟩ := double_closed a h3 hdr
    refine ⟨rfl, doubleAndAdd_of_pos (by omega) rfl hd, fun k => scalarMulLoop_infinity .., ?_,
      fun k => scalarMul_total a k h3 hq⟩
    rw [hd]
    exact (doubleAndAdd_of_pos (by omega) rfl hd).trans (doubleAndAdd_of_pos (by omega) rfl hd2)

/-- Settles O43: `Decompress` answers the point over `x`, and no other ordinate over `x` has its parity. -/
theorem pdecompWritesCurvePoint : Obligations.PdecompWritesCurvePoint := by
  intro s rd ra par hl p x hprime h5 hx hr hs
  obtain ⟨y, port, hd, hy, hcurve, hpar, hdraws⟩ := decompress_of_residue par.toNat hprime (by omega) hr hs
  obtain ⟨t, ht, hw, rfl⟩ := finishPoint_writes (c := .finite x y) rd port ⟨hx, hy⟩
  have hodd : p % 2 = 1 := hprime.eq_two_or_odd.resolve_left (by omega)
  exact ⟨t, y, (execPdecomp_of_decompress rd ra par hl hx hd).trans ht, hw, hy, hcurve, hpar,
    fun y' hy' hcurve' hpar' => eq_of_onCurve_of_parity hprime hodd hy hy' hcurve hcurve' hpar hpar', hdraws⟩

/-- Settles O44: the range check comes first; then both errors are those of `Decompress`. -/
theorem pdecompErrors : Obligations.PdecompErrors := by
  intro s rd ra par hl p x rhs limit
  refine ⟨execPdecomp_of_le rd ra par hl, fun hx h5 h0 he => ?_, fun hx h5 h0 he hn => ?_⟩
  · exact execPdecomp_of_decompress rd ra par hl hx (decompress_of_euler_ne_one (by omega) h0 he ..)
  · exact execPdecomp_of_decompress rd ra par hl hx (decompress_of_noneUsable (by omega) h0 he hn _)

/-- Settles O35: the branches of `Add` and `Dbl`, with residues read as integers. -/
theorem pointLawRouting : Obligations.PointLawRouting := by
  intro p a x1 y1 x2 y2 q h2
  have hp : 0 < p := by omega
  refine ⟨add_infinity_left a q, add_infinity_right a q, double_infinity a, double_finite_zero a x1, add_of_y_ne a,
    add_self a _, fun hx v hv => ?_, add_of_no_inverse a, double_of_no_inverse a, fun hy v hv => ?_⟩
  · refine ⟨_, _, add_of_inverse a hx hv, ?_⟩
    rw [← intCast_residue _ hp]
    exact ⟨rfl, rfl⟩
  · refine ⟨_, _, double_of_inverse a hy hv, ?_⟩
    have hlam : ((3 * (x1 : Int) * x1 + a) * v) % p = ((3 * x1 * x1 + a) * v % p : Nat) := by push_cast; rfl
    rw [hlam]
    exact ⟨rfl, rfl⟩

/-- Settles O41: `Add` of a point with itself is `Dbl`. -/
theorem doublingIsSelfAddition : Obligations.DoublingIsSelfAddition := fun s rd ra => execPdbl_eq_execPadd rd ra s

end Sys2Proof.Claims

/-!
SUPPORT. Proofs about keys, signatures and the signature string (spec/44_signature.md).  The string that `SIGN` and
`SIGENC` write decodes to its components; each command on a locked core has one lemma a branch.
-/

namespace Sys2Proof.Machine

open Sys2Proof Sys2Proof.Claims

/-! ### The digest (R16, R192) -/

/-- The fold of `os2i` from any accumulator. -/
theorem os2i_foldl (bytes : List Byte) : ∀ a : Nat,
    bytes.foldl (fun acc b => acc * 256 + b.toNat) a = a * 256 ^ bytes.length + os2i bytes := by
  induction bytes with
  | nil => simp [os2i]
  | cons b bs ih =>
    intro a
    rw [os2i, List.foldl_cons, List.foldl_cons, ih, ih, List.length_cons, pow_succ]
    ring

/-- `os2i` with the first byte taken out of the fold. -/
theorem os2i_cons (b : Byte) (bs : List Byte) : os2i (b :: bs) = b.toNat * 256 ^ bs.length + os2i bs := by
  rw [os2i, List.foldl_cons, os2i_foldl, Nat.zero_mul, Nat.zero_add]

theorem os2i_eq_sum (bytes : List Byte) :
    os2i bytes = ∑ i : Fin bytes.length, bytes[i].toNat * 256 ^ (bytes.length - 1 - i.val) := by
  induction bytes with
  | nil => simp [os2i]
  | cons b bs ih =>
    rw [os2i_cons, ih]
    simp [Fin.sum_univ_succ, Nat.sub_sub, add_comm]

section

variable {s : State}

theorem digestToE_of_ne_zero (h : os2i (s.h.toList.take s.hlen.toNat) % s.n.toNat ≠ 0) :
    s.digestToE = os2i (s.h.toList.take s.hlen.toNat) % s.n.toNat := if_neg h

theorem digestToE_of_eq_zero (h : os2i (s.h.toList.take s.hlen.toNat) % s.n.toNat = 0) : s.digestToE = 1 := if_pos h

theorem digestToE_range (hn : 2 ≤ s.n.toNat) : 1 ≤ s.digestToE ∧ s.digestToE < s.n.toNat := by
  by_cases h : os2i (s.h.toList.take s.hlen.toNat) % s.n.toNat = 0
  · rw [digestToE_of_eq_zero h]
    omega
  · rw [digestToE_of_ne_zero h]
    exact ⟨Nat.pos_of_ne_zero h, Nat.mod_lt _ (by omega)⟩

/-- A prefix of a buffer is fixed by the bytes in it. -/
theorem take_toList_congr {len count : Nat} {u v : Vector Byte len} (h : ∀ k : Fin len, k.val < count → u[k] = v[k]) :
    u.toList.take count = v.toList.take count := by
  refine List.ext_getElem (by simp) fun i hi _ => ?_
  have hlt : i < count ∧ i < len := by simpa using hi
  simpa using h ⟨i, hlt.2⟩ hlt.1

/-- The digest has an inverse modulo a prime (R200). -/
theorem exists_inverse_digestToE (hn : s.n.toNat.Prime) :
    ∃ v, inverse s.digestToE s.n.toNat = some v ∧ s.digestToE * v % s.n.toNat = 1 := by
  obtain ⟨h1, hlt⟩ := digestToE_range hn.two_le
  have hgcd : Nat.gcd (s.digestToE % s.n.toNat) s.n.toNat = 1 :=
    (Nat.gcd_rec _ _).symm.trans (hn.coprime_iff_not_dvd.mpr (Nat.not_dvd_of_pos_of_lt h1 hlt))
  obtain ⟨-, v, hv, -, hone⟩ := (inverse_cases hn.two_le).resolve_right fun h => h.1 hgcd
  exact ⟨v, hv, hone⟩

end

/-! ### The signature string (R17, R198, R199, R209) -/

theorem sigEncode_length (w r sv : Nat) : (sigEncode w r sv).length = 2 * w := by
  rw [sigEncode, List.length_append, hexenc_length, hexenc_length, two_mul]

theorem sigEncode_isSome (w r sv : Nat) : ∀ c ∈ sigEncode w r sv, (hexval c).isSome = true := fun c hc =>
  (List.mem_append.mp hc).elim (hexenc_isSome r w c) (hexenc_isSome sv w c)

/-- Multiples of `16 ^ w` do not enter the low `w` digits. -/
theorem hexenc_add_mul_pow (v w : Nat) : ∀ a : Nat, hexenc (a * 16 ^ w + v) w = hexenc v w := by
  induction w with
  | zero => exact fun _ => rfl
  | succ w ih =>
    intro a
    have hshift : a * 16 ^ (w + 1) + v = a * 16 * 16 ^ w + v := by ring
    have hdigit : (a * 16 * 16 ^ w + v) / 16 ^ w % 16 = v / 16 ^ w % 16 := by
      rw [add_comm, Nat.add_mul_div_right _ _ (by positivity), Nat.add_mul_mod_self_right]
    rw [hexenc, hexenc, hshift, hdigit, ih]

/-- Decoding digits and encoding the value gives the digits back up to letter case (R209). -/
theorem map_hexval_hexenc_hexdec (cs : List Byte) (h : ∀ c ∈ cs, (hexval c).isSome = true) :
    (hexenc (hexdec cs) cs.length).map hexval = cs.map hexval := by
  induction cs with
  | nil => rfl
  | cons c cs ih =>
    obtain ⟨d, hd⟩ := Option.isSome_iff_exists.mp (h c (by simp))
    have hd16 : d < 16 := by simpa [hd] using hexval_getD_lt c
    have hdigit : (d * 16 ^ cs.length + hexdec cs) / 16 ^ cs.length % 16 = d := by
      rw [add_comm, Nat.add_mul_div_right _ _ (by positivity), Nat.div_eq_of_lt (hexdec_lt cs), Nat.zero_add,
        Nat.mod_eq_of_lt hd16]
    rw [hexdec_cons, hd, Option.getD_some, List.length_cons, hexenc, hdigit, hexenc_add_mul_pow, List.map_cons,
      List.map_cons, hexval_hexdigit d hd16, hd, ih fun c hc => h c (by simp [hc])]

theorem map_hexval_sigEncode_hexdec {w : Nat} {cs : List Byte} (hlen : cs.length = 2 * w)
    (h : ∀ c ∈ cs, (hexval c).isSome = true) :
    (sigEncode w (hexdec (cs.take w)) (hexdec (cs.drop w))).map hexval = cs.map hexval := by
  have htake := map_hexval_hexenc_hexdec (cs.take w) fun c hc => h c (List.mem_of_mem_take hc)
  have hdrop := map_hexval_hexenc_hexdec (cs.drop w) fun c hc => h c (List.mem_of_mem_drop hc)
  rw [List.length_take_of_le (by omega)] at htake
  have hw : (cs.drop w).length = w := by rw [List.length_drop]; omega
  rw [hw] at hdrop
  rw [sigEncode, List.map_append, htake, hdrop, ← List.map_append, List.take_append_drop]

section

variable {s : State}

theorem sigField_length (hw : s.hexw ≤ 64) : (sigField s).length = 2 * s.hexw := by
  rw [sigField, List.length_take_of_le (by simp; omega)]

theorem sigDecode_of_siglen_ne (h : s.siglen.toNat ≠ 2 * s.hexw) : s.sigDecode = .error (malformed 1) := by
  rcases s.sigDecode_cases with ⟨-, hd⟩ | ⟨hl, -⟩ | ⟨hl, -⟩
  · exact hd
  · exact absurd hl h
  · exact absurd hl h

theorem sigDecode_of_not_digit (hl : s.siglen.toNat = 2 * s.hexw) (h : ∃ c ∈ sigField s, hexval c = none) :
    s.sigDecode = .error (malformed 2) := by
  obtain ⟨c, hc, hnone⟩ := h
  rcases s.sigDecode_cases with ⟨hne, -⟩ | ⟨-, -, hd⟩ | ⟨-, hall, -⟩
  · exact absurd hl hne
  · exact hd
  · exact absurd (hall c hc) (by simp [hnone])

theorem sigDecode_of_wellFormed (h : StringWellFormed s) :
    s.sigDecode = .ok (hexdec ((sigField s).take s.hexw), hexdec ((sigField s).drop s.hexw)) := by
  obtain ⟨hl, hall⟩ := h
  rcases s.sigDecode_cases with ⟨hne, -⟩ | ⟨-, ⟨c, hc, hnone⟩, -⟩ | ⟨-, -, hd⟩
  · exact absurd hl hne
  · exact absurd (hall c hc) (by simp [hnone])
  · exact hd

/-- The decoded components fit their fields (R199). -/
theorem hexdec_sigField_lt (h : StringWellFormed s) :
    hexdec ((sigField s).take s.hexw) < 16 ^ s.hexw ∧ hexdec ((sigField s).drop s.hexw) < 16 ^ s.hexw :=
  (sigDecode_answer s).value (sigDecode_of_wellFormed h)

/-- What fits a field fits a register. -/
theorem lt_two_pow_of_fits {v : Nat} (hw : s.hexw ≤ 64) (h : v < 16 ^ s.hexw) : v < 2 ^ 256 :=
  h.trans_le (Nat.pow_le_pow_right (n := 16) (by omega) hw)

/-- The two fields replace the first bytes of `SIG` and the rest stays (R198). -/
theorem overwriteBuffer_sigEncode {w : Nat} (hw : w ≤ 64) (r sv : Nat) (sig : Vector Byte 128) :
    (overwriteBuffer (sigEncode w r sv) sig).toList = hexenc r w ++ hexenc sv w ++ sig.toList.drop (2 * w) := by
  have hlen := sigEncode_length w r sv
  rw [overwriteBuffer_toList, overwrite_eq_append _ _ (by simp; omega), hlen, sigEncode]

/-- The length of the two fields fits `SIGLEN`. -/
theorem siglen_toNat {w : Nat} (hw : w ≤ 64) : (BitVec.ofNat 32 (2 * w)).toNat = 2 * w := by
  rw [BitVec.toNat_ofNat]
  exact Nat.mod_eq_of_lt (by omega)

theorem sigField_setSigString (hw : s.hexw ≤ 64) (r sv : Nat) :
    sigField (s.setSigString (sigEncode s.hexw r sv)) = sigEncode s.hexw r sv := by
  have hlen := sigEncode_length s.hexw r sv
  have htext := overwriteBuffer_sigEncode hw r sv s.sig
  rw [← sigEncode] at htext
  exact (congrArg (List.take (2 * s.hexw)) htext).trans (by rw [← hlen, List.take_left])

theorem stringWellFormed_setSigString (hw : s.hexw ≤ 64) (r sv : Nat) :
    StringWellFormed (s.setSigString (sigEncode s.hexw r sv)) := by
  refine ⟨?_, by rw [sigField_setSigString hw]; exact sigEncode_isSome _ _ _⟩
  rw [State.setSigString_siglen, sigEncode_length]
  exact siglen_toNat hw

/-- `SigDecode(SigEncode(r, s)) = (r, s)` for components that fit (R202, R209). -/
theorem sigDecode_setSigString {r sv : Nat} (hw : s.hexw ≤ 64) (hr : r < 16 ^ s.hexw) (hs : sv < 16 ^ s.hexw) :
    (s.setSigString (sigEncode s.hexw r sv)).sigDecode = .ok (r, sv) := by
  have hh : (s.setSigString (sigEncode s.hexw r sv)).hexw = s.hexw := rfl
  rw [sigDecode_of_wellFormed (stringWellFormed_setSigString hw r sv), sigField_setSigString hw, hh, sigEncode,
    List.take_left' (hexenc_length _ _), List.drop_left' (hexenc_length _ _), hexdec_hexenc, hexdec_hexenc,
    Nat.mod_eq_of_lt hr, Nat.mod_eq_of_lt hs]

end

/-! ### The commands on a locked core (R190, R194, R196, R200, R206, R208) -/

theorem keyOutOfRange_of_or {s : State} (h : s.d.toNat = 0 ∨ s.n.toNat ≤ s.d.toNat) : s.keyOutOfRange = true :=
  decide_eq_true h

/-- How SIGN ends for what its retry loop comes to (R196, R28). -/
def State.finishSign (s : State) : Retry (Nat × Nat) → Result
  | .done rs port =>
    .next (((s.setPort port).setSignature rs.1 rs.2).setSigString (sigEncode s.hexw rs.1 rs.2)).succeed
  | .failed e port => .next ((s.setPort port).raise e)
  | .endless => .fault .endlessRetry

section

variable {s : State} (hl : s.status.locked = true)

include hl

/-- `STATUS` after a success of a locked core, as R130 has it. -/
theorem okStatus_of_locked : okStatus true = s.status.ended false 0 0 := by
  rw [okStatus, Status.ended, hl]

theorem endCommand_of_locked (valid : Bool) (err info : Byte) : s.endCommand valid err info =
    { s with status := { done := true, valid := valid, locked := true, err := err, errInfo := info } } := by
  rw [State.endCommand, Status.ended, hl]

theorem execSigenc_of_fits (h : s.sigr.toNat < 16 ^ s.hexw ∧ s.sigs.toNat < 16 ^ s.hexw) :
    execSigenc s = .next (s.setSigString (sigEncode s.hexw s.sigr.toNat s.sigs.toNat)).succeed := by
  rw [execSigenc, State.whenLocked_locked _ hl, if_neg (by omega)]

theorem execSigenc_of_not_fits (h : 16 ^ s.hexw ≤ s.sigr.toNat ∨ 16 ^ s.hexw ≤ s.sigs.toNat) :
    execSigenc s = .next (s.raise { kind := .operandRange, info := 5 }) := by
  rw [execSigenc, State.whenLocked_locked _ hl, if_pos h]

theorem execSigdec_of_sigDecode {r sv : Nat} (h : s.sigDecode = .ok (r, sv)) :
    execSigdec s = .next (s.setSignature r sv).succeed := by
  rw [execSigdec, State.whenLocked_locked _ hl, h]

theorem execSigdec_of_error {e : CmdError} (h : s.sigDecode = .error e) : execSigdec s = .next (s.raise e) := by
  rw [execSigdec, State.whenLocked_locked _ hl, h]

theorem execKeygen_of_bits {bits : BitVec 12} (h : bits.toNat < 1 ∨ s.build.w < bits.toNat) :
    execKeygen bits s = .next (s.raise { kind := .operandRange, info := 4 }) := by
  rw [execKeygen, State.whenLocked_locked _ hl, if_pos h]

theorem execKeygen_of_done {bits : BitVec 12} {u : Nat} {port : Port} (h : 1 ≤ bits.toNat ∧ bits.toNat ≤ s.build.w)
    (hr : s.port.retry bits.toNat (keygenRound s.n.toNat) = .done u port) :
    execKeygen bits s = .next ((s.setPort port).setD u).succeed := by
  rw [execKeygen, State.whenLocked_locked _ hl, if_neg (by omega), hr]

theorem execPubkey_of_key (rd : Fin 4) (hk : 1 ≤ s.d.toNat ∧ s.d.toNat < s.n.toNat) (hg : InRange s s.g) :
    execPubkey rd s = s.finishPoint rd (s.mulPoint s.d.toNat s.g.value) := by
  rw [execPubkey, State.whenLocked_locked _ hl, (keyOutOfRange_eq_false_iff s).mpr hk, if_neg Bool.false_ne_true,
    readPoint_of_inRange hg]

theorem execPubkey_of_no_key (rd : Fin 4) (hk : s.d.toNat = 0 ∨ s.n.toNat ≤ s.d.toNat) :
    execPubkey rd s = .next (s.raise keyRange) := by
  rw [execPubkey, State.whenLocked_locked _ hl, if_pos (keyOutOfRange_of_or hk)]

theorem execSign_of_no_key (hk : s.d.toNat = 0 ∨ s.n.toNat ≤ s.d.toNat) : execSign s = .next (s.raise keyRange) := by
  rw [execSign, State.whenLocked_locked _ hl, if_pos (keyOutOfRange_of_or hk)]

/-- SIGN with a key and a generator in range comes to what its retry loop comes to. -/
theorem execSign_of_key (hk : 1 ≤ s.d.toNat ∧ s.d.toNat < s.n.toNat) (hg : InRange s s.g) :
    execSign s = s.finishSign (s.port.retry s.nbits.toNat (s.signRound s.g.value s.digestToE)) := by
  rw [execSign, State.whenLocked_locked _ hl, (keyOutOfRange_eq_false_iff s).mpr hk, if_neg Bool.false_ne_true,
    readPoint_of_inRange hg]
  rfl

section

variable {ra : BitVec 4} {q : PointReg} (hq : s.pointSource ra = some q)

include hq

theorem execVerify_of_error {e : CmdError} (h : s.verifyResult q = .error e) :
    execVerify ra s = .next (s.raise e) := by
  rw [execVerify, State.withSource_some _ hq, State.whenLocked_locked _ hl, h]

theorem execVerify_of_verdict {accept : Bool} (h : s.verifyResult q = .ok accept) :
    execVerify ra s = .next (s.endCommand accept 0 0) := by
  rw [execVerify, State.withSource_some _ hq, State.whenLocked_locked _ hl, h]

end

end

/-! ### A round of `SIGN` (R196) -/

theorem components_some_iff {s : State} {e k x y r sv : Nat} : s.components e k (.finite x y) = some (r, sv) ↔
    r = x % s.n.toNat ∧ sv = (r * s.d.toNat + k * e) % s.n.toNat ∧ r ≠ 0 ∧ sv ≠ 0 := by
  simp only [State.components]
  split
  · next h =>
    rw [Option.some.injEq, Prod.mk.injEq]
    refine ⟨?_, ?_⟩
    · rintro ⟨rfl, rfl⟩
      exact ⟨rfl, rfl, h⟩
    · rintro ⟨rfl, rfl, -⟩
      exact ⟨rfl, rfl⟩
  · next h =>
    refine ⟨nofun, ?_⟩
    rintro ⟨rfl, rfl, h'⟩
    exact absurd h' h

/-- A round answers where the nonce is in range and its point gives components that are not 0. -/
theorem signRound_some_iff {s : State} {g : Point} {e k r sv : Nat} :
    s.signRound g e k = .ok (some (r, sv)) ↔ (1 ≤ k ∧ k < s.n.toNat) ∧ ∃ x y, s.mulPoint k g = .ok (.finite x y) ∧
      r = x % s.n.toNat ∧ sv = (r * s.d.toNat + k * e) % s.n.toNat ∧ r ≠ 0 ∧ sv ≠ 0 := by
  unfold State.signRound
  by_cases hk : k = 0 ∨ s.n.toNat ≤ k
  · rw [if_pos hk]
    refine ⟨nofun, ?_⟩
    rintro ⟨hk', -⟩
    omega
  · have hk' : 1 ≤ k ∧ k < s.n.toNat := by omega
    rw [if_neg hk]
    rcases s.mulPoint k g with err | _ | ⟨x, y⟩
    · simp
    · simp [State.components]
    · simp [hk', components_some_iff]

/-! ### The checks and the equation of `VERIFY` (R200) -/

section

variable {s : State} {qr : PointReg} {r sv : Nat}

theorem verifyResult_of_sigDecode_error {e : CmdError} (h : s.sigDecode = .error e) :
    s.verifyResult qr = .error e := by
  rw [State.verifyResult, h]

variable (hd : s.sigDecode = .ok (r, sv))

include hd

theorem verifyResult_of_r_out (hr : r = 0 ∨ s.n.toNat ≤ r) : s.verifyResult qr = .error (invalidRange 1) := by
  simp only [State.verifyResult, hd]
  rw [if_pos hr]

theorem verifyResult_of_s_out (hr : 1 ≤ r ∧ r < s.n.toNat) (hs : sv = 0 ∨ s.n.toNat ≤ sv) :
    s.verifyResult qr = .error (invalidRange 2) := by
  simp only [State.verifyResult, hd]
  rw [if_neg (by omega), if_pos hs]

theorem verifyResult_of_not_inRange (hr : 1 ≤ r ∧ r < s.n.toNat) (hs : 1 ≤ sv ∧ sv < s.n.toNat)
    (hq : ¬ InRange s qr) : s.verifyResult qr = .error pointRange := by
  simp only [State.verifyResult, hd]
  rw [if_neg (by omega), if_neg (by omega), readPoint_of_not_inRange hq]

theorem verifyResult_of_inverse {v : Nat} (hr : 1 ≤ r ∧ r < s.n.toNat) (hs : 1 ≤ sv ∧ sv < s.n.toNat)
    (hq : InRange s qr) (hg : InRange s s.g) (hv : inverse s.digestToE s.n.toNat = some v) :
    s.verifyResult qr = s.verifyEquation s.g.value qr.value r sv v := by
  simp only [State.verifyResult, hd]
  rw [if_neg (by omega), if_neg (by omega), readPoint_of_inRange hq, readPoint_of_inRange hg,
    inverseOrRaise_of_some hv]

end

/-- The verdict is whether `C` is finite with `C.x mod N = r`. -/
theorem verifyEquation_of_sum {s : State} {g q c1 c2 c : Point} {r sv v : Nat}
    (h1 : s.mulPoint (sv * v % s.n.toNat) g = .ok c1)
    (h2 : s.mulPoint ((s.n.toNat - r * v % s.n.toNat) % s.n.toNat) q = .ok c2) (h : s.addPoints c1 c2 = .ok c) :
    ∃ accept, s.verifyEquation g q r sv v = .ok accept ∧
      (accept = true ↔ ∃ x y, c = .finite x y ∧ x % s.n.toNat = r) := by
  simp only [State.verifyEquation, h1, h2, h]
  cases c with
  | infinity => exact ⟨false, rfl, by simp⟩
  | finite x y => exact ⟨decide (x % s.n.toNat = r), rfl, by simp⟩

/-- The scalars of `VERIFY` bring back the nonce of `SIGN` (R202). -/
theorem verify_scalars_eq_nonce {n d k e r sv v : Nat} (hk : k < n) (he : e * v % n = 1)
    (hs : sv = (r * d + k * e) % n) : (sv * v % n + (n - r * v % n) % n * d) % n = k := by
  have hn : 0 < n := by omega
  have hone : (e : ZMod n) * v = 1 := by
    have hcast := congrArg (Nat.cast (R := ZMod n)) he
    rwa [ZMod.natCast_mod, Nat.cast_mul, Nat.cast_one] at hcast
  have hz2 : (((n - r * v % n) % n : Nat) : ZMod n) = -(r * v) := by
    simpa using natCast_euclid_coefficient n r 0 v hn
  refine eq_of_natCast_eq ?_ (Nat.mod_lt _ hn) hk
  rw [ZMod.natCast_mod, Nat.cast_add, Nat.cast_mul, hz2, ZMod.natCast_mod, hs, Nat.cast_mul, ZMod.natCast_mod]
  push_cast
  linear_combination (k : ZMod n) * hone

/-- VERIFY accepts the components of a good round of `SIGN` with the same key, digest and domain (R202). -/
theorem verifyResult_of_signRound {s : State} {qr : PointReg} {k r sv : Nat} (hn : s.n.toNat.Prime)
    (hround : s.signRound s.g.value s.digestToE k = .ok (some (r, sv))) (hd : s.sigDecode = .ok (r, sv))
    (hq : InRange s qr) (hg : InRange s s.g) (hlaw : KeyGroupLaw s qr.value) : s.verifyResult qr = .ok true := by
  obtain ⟨⟨-, hkn⟩, x, y, hc, hr, hs, hr0, hs0⟩ := signRound_some_iff.mp hround
  obtain ⟨v, hv, hone⟩ := exists_inverse_digestToE hn
  obtain ⟨c1, c2, hc1, hc2, hsum⟩ := hlaw _ (Nat.mod_lt (sv * v) hn.pos) _
    (Nat.mod_lt (s.n.toNat - r * v % s.n.toNat) hn.pos)
  rw [verify_scalars_eq_nonce hkn hone hs, hc] at hsum
  obtain ⟨accept, haccept, hiff⟩ := verifyEquation_of_sum hc1 hc2 hsum
  rw [verifyResult_of_inverse hd ⟨Nat.pos_of_ne_zero hr0, hr ▸ Nat.mod_lt _ hn.pos⟩
    ⟨Nat.pos_of_ne_zero hs0, hs ▸ Nat.mod_lt _ hn.pos⟩ hq hg hv, haccept, hiff.mpr ⟨x, y, rfl, hr.symm⟩]

/-! ### What `SIGN` leaves for `VERIFY` (R202) -/

theorem ErrorKind.code_ne_zero (k : ErrorKind) : k.code ≠ 0 := by cases k <;> decide

/-- A SIGN that ends without an error has written the components of one of its rounds. -/
theorem execSign_of_no_error {s t : State} (hl : s.status.locked = true)
    (hk : 1 ≤ s.d.toNat ∧ s.d.toNat < s.n.toNat) (hg : InRange s s.g) (h : execSign s = .next t)
    (he : t.status.err = 0) :
    ∃ k r sv port, s.signRound s.g.value s.digestToE k = .ok (some (r, sv)) ∧
      t = (((s.setPort port).setSignature r sv).setSigString (sigEncode s.hexw r sv)).succeed := by
  rw [execSign_of_key hl hk hg] at h
  rcases s.port.retry_cases s.nbits.toNat (s.signRound s.g.value s.digestToE) with
    ⟨k, ⟨r, sv⟩, port, hround, hr⟩ | ⟨-, e, port, -, hr⟩ | hr
  · rw [hr] at h
    cases h
    exact ⟨k, r, sv, port, hround, rfl⟩
  · rw [hr] at h
    cases h
    exact absurd he e.kind.code_ne_zero
  · rw [hr] at h
    cases h

/-- `N` is below `16 ^ HEXW` where `NBITS` is its bit length and a multiple of 4 (R198). -/
theorem hexw_of_nbits {s : State} (hnb : s.nbits.toNat = bitlength s.n.toNat) (h4 : s.nbits.toNat % 4 = 0) :
    s.hexw ≤ 64 ∧ s.n.toNat < 16 ^ s.hexw := by
  have h256 : bitlength s.n.toNat ≤ 256 := bitlength_le_iff.mpr s.n.isLt
  have hw : bitlength s.n.toNat = 4 * s.hexw := by rw [State.hexw]; omega
  have hlt := lt_two_pow_bitlength s.n.toNat
  rw [hw, pow_mul] at hlt
  exact ⟨by omega, hlt⟩

theorem inRange_ofPoint {s : State} {q : Point} (h : PointInRange s.p.toNat q) : InRange s (PointReg.ofPoint q) := by
  cases q with
  | infinity => exact .inl rfl
  | finite x y =>
    have hp := s.p.isLt
    rw [InRange, PointReg.ofPoint, toWord_toNat (h.1.trans hp), toWord_toNat (h.2.trans hp)]
    exact .inr h

end Sys2Proof.Machine

namespace Sys2Proof.Claims

open Sys2Proof Sys2Proof.Machine

/-! ### Keys, signatures and the codec, settled -/

/-- Settles O45: the retry loop rejects the draws before the first in range. -/
theorem keygenTakesFirstDrawInRange : Obligations.KeygenTakesFirstDrawInRange := by
  intro s bits before rest v hl h1 hw hq hb hv1 hvn
  have hretry := Port.retry_first bits.toNat (keygenRound s.n.toNat) before v rest _ s.port hq
    (fun z hz => (keygenRound_none_iff _ _).mpr (hb z hz)) (if_pos ⟨hv1, hvn⟩)
  have hn := s.n.isLt
  refine ⟨_, execKeygen_of_done hl ⟨h1, hw⟩ hretry, toWord_toNat (by omega), ?_⟩
  rw [okStatus_of_locked hl]
  rfl

/-- Settles O46: the range checks come before anything else on a locked core. -/
theorem keyRangeErrors : Obligations.KeyRangeErrors := fun _ _ rd hl =>
  ⟨execKeygen_of_bits hl, fun hk => ⟨execPubkey_of_no_key hl rd hk, execSign_of_no_key hl hk⟩⟩

/-- Settles O47: `ScalarMul` answers for a prime modulus, and the command writes what it answers. -/
theorem pubkeyWritesMultiple : Obligations.PubkeyWritesMultiple := by
  intro s rd hl hprime h5 hd1 hdn hg
  have : Fact (s.p.toNat).Prime := ⟨hprime⟩
  obtain ⟨c, hc, hr⟩ := scalarMul_total s.a.toNat s.d.toNat (by omega) (pointInRange_of_inRange hg)
  obtain ⟨t, ht, hw, hp⟩ := finishPoint_writes rd s.port hr
  exact ⟨t, c, (execPubkey_of_key hl rd ⟨hd1, hdn⟩ hg).trans ((congrArg _ hc).trans ht), hw, hp, hc⟩

/-- Settles O48: `os2i` is the sum of R16, and the digest depends on the buffer through its first bytes. -/
theorem digestReduction : Obligations.DigestReduction := by
  intro s hn
  obtain ⟨h1, hlt⟩ := digestToE_range hn
  refine ⟨?_, h1, by omega, fun h' hh => ?_⟩
  · intro bytes v
    have hv : os2i bytes = v := os2i_eq_sum bytes
    rw [← hv]
    exact ⟨digestToE_of_ne_zero, digestToE_of_eq_zero⟩
  · have htake := take_toList_congr hh
    simp only [State.digestToE, htake]

/-- Settles O49: the retry loop rejects the draws of the failing rounds; the good one is written. -/
theorem signWritesFirstGoodSignature : Obligations.SignWritesFirstGoodSignature := by
  intro s before rest v x y hl hd1 hdn hg hw k n r sv hq hb hk1 hkn hc hr0 hs0
  have hround : s.signRound s.g.value s.digestToE k = .ok (some (r, sv)) :=
    signRound_some_iff.mpr ⟨⟨hk1, by omega⟩, x, y, hc, rfl, rfl, hr0, hs0⟩
  have hretry := Port.retry_first s.nbits.toNat (s.signRound s.g.value s.digestToE) before v rest _ s.port hq
    (fun z hz => (signRound_none_iff _).mpr (hb z hz)) hround
  have hlt : ∀ z, z % n < 2 ^ 256 := fun z => (Nat.mod_lt z (by omega)).trans s.n.isLt
  refine ⟨_, (execSign_of_key hl ⟨hd1, hdn⟩ hg).trans (congrArg _ hretry), toWord_toNat (hlt _),
    toWord_toNat (hlt _), overwriteBuffer_sigEncode hw r sv s.sig, ?_⟩
  rw [okStatus_of_locked hl, ← sigEncode_length s.hexw r sv]
  rfl

/-- Settles O50: for prime moduli the digest has an inverse and the point law answers. -/
theorem verifyVerdict : Obligations.VerifyVerdict := by
  intro s ra q hl hprime h5 hnprime hra hq hg hstring n r sv hr1 hrn hs1 hsn
  have : Fact (s.p.toNat).Prime := ⟨hprime⟩
  have h3 : 3 ≤ s.p.toNat := by omega
  obtain ⟨v, hv, hone⟩ := exists_inverse_digestToE hnprime
  obtain ⟨c1, hc1, hr1'⟩ := scalarMul_total s.a.toNat (sv * v % n) h3 (pointInRange_of_inRange hg)
  obtain ⟨c2, hc2, hr2'⟩ := scalarMul_total s.a.toNat ((n - r * v % n) % n) h3 (pointInRange_of_inRange hq)
  obtain ⟨c, hc, -⟩ := add_closed s.a.toNat h3 hr1' hr2'
  obtain ⟨accept, haccept, hiff⟩ := verifyEquation_of_sum (s := s) hc1 hc2 hc
  have hresult := verifyResult_of_inverse (sigDecode_of_wellFormed hstring) ⟨hr1, hrn⟩ ⟨hs1, hsn⟩ hq hg hv
  refine ⟨s.endCommand accept 0 0, v, c1, c2, c, execVerify_of_verdict hl hra (hresult.trans haccept), hone, hc1, hc2,
    hc, endCommand_of_locked hl accept 0 0, hiff⟩

/-- Settles O51: each check is reached when those before it have passed. -/
theorem verifyRejections : Obligations.VerifyRejections := by
  intro s ra q hl hra n r sv
  have hraise : ∀ {e}, s.verifyResult q = .error e → exec (.verify ra) s = .next (s.raise e) :=
    execVerify_of_error hl hra
  refine ⟨fun h => ?_, fun h hc => ?_, fun h hr => ?_, fun h hr1 hrn hs => ?_, fun h hr1 hrn hs1 hsn hq => ?_⟩
  · exact hraise (verifyResult_of_sigDecode_error (sigDecode_of_siglen_ne h))
  · exact hraise (verifyResult_of_sigDecode_error (sigDecode_of_not_digit h hc))
  · exact hraise (verifyResult_of_r_out (sigDecode_of_wellFormed h) hr)
  · exact hraise (verifyResult_of_s_out (sigDecode_of_wellFormed h) ⟨hr1, hrn⟩ hs)
  · exact hraise (verifyResult_of_not_inRange (sigDecode_of_wellFormed h) ⟨hr1, hrn⟩ ⟨hs1, hsn⟩ hq)

/-- Settles O52: the string decodes to the components of the accepted round, whose nonce the scalars of `VERIFY`
bring back. -/
theorem verifyAcceptsWhatSignProduced : Obligations.VerifyAcceptsWhatSignProduced := by
  intro s t j q hl hn hnb h4 hg hd1 hdn hq hqr hlaw hsign herr
  obtain ⟨hw, hfits⟩ := hexw_of_nbits hnb h4
  obtain ⟨k, r, sv, port, hround, rfl⟩ := execSign_of_no_error hl ⟨hd1, hdn⟩ hg hsign herr
  obtain ⟨-, x, y, -, hr, hs, -⟩ := signRound_some_iff.mp hround
  have hrlt : r < 16 ^ s.hexw := (hr ▸ Nat.mod_lt _ hn.pos).trans hfits
  have hslt : sv < 16 ^ s.hexw := (hs ▸ Nat.mod_lt _ hn.pos).trans hfits
  have hd := sigDecode_setSigString (s := (s.setPort port).setSignature r sv) hw hrlt hslt
  have hvalue := PointReg.value_ofPoint hqr s.p.isLt
  rw [← hvalue] at hlaw
  refine ⟨_, execVerify_of_verdict (q := PointReg.ofPoint q) (accept := true) ?_ ?_ ?_, rfl, rfl⟩
  · exact hl
  · rw [State.pointSource_index _ (i := j) (by simp; omega)]
    simp
  · exact verifyResult_of_signRound hn hround hd (inRange_ofPoint hqr) hg hlaw

/-- Settles O53: both components fit, or the error is raised before anything is written. -/
theorem sigencResults : Obligations.SigencResults := by
  intro s hl hw
  refine ⟨fun h => ⟨_, execSigenc_of_fits hl h, overwriteBuffer_sigEncode hw _ _ s.sig, ?_⟩, execSigenc_of_not_fits hl⟩
  rw [okStatus_of_locked hl, ← sigEncode_length s.hexw s.sigr.toNat s.sigs.toNat]
  rfl

/-- Settles O54: what `SigDecode` answers is written or raised. -/
theorem sigdecResults : Obligations.SigdecResults := by
  intro s hl hw
  refine ⟨fun h => ?_, fun h => execSigdec_of_error hl (sigDecode_of_siglen_ne h),
    fun h hc => execSigdec_of_error hl (sigDecode_of_not_digit h hc)⟩
  obtain ⟨hr, hs⟩ := hexdec_sigField_lt h
  refine ⟨_, execSigdec_of_sigDecode hl (sigDecode_of_wellFormed h), toWord_toNat (lt_two_pow_of_fits hw hr),
    toWord_toNat (lt_two_pow_of_fits hw hs), ?_⟩
  rw [okStatus_of_locked hl]
  rfl

/-- Settles O55: the string of two components decodes to them, and the digits decoded encode to the same digits. -/
theorem sigencThenSigdecRoundTrip : Obligations.SigencThenSigdecRoundTrip := by
  refine ⟨fun w v hv => (hexdec_hexenc v w).trans (Nat.mod_eq_of_lt hv), fun s hl hw => ⟨fun hr hs => ?_, fun h => ?_⟩⟩
  · exact ⟨_, _, execSigenc_of_fits hl ⟨hr, hs⟩,
      execSigdec_of_sigDecode (s := (s.setSigString _).succeed) hl (sigDecode_setSigString hw hr hs),
      toWord_of_toNat _, toWord_of_toNat _, (okStatus_of_locked hl).symm⟩
  · obtain ⟨hr, hs⟩ := hexdec_sigField_lt h
    have hr' := toWord_toNat (lt_two_pow_of_fits hw hr)
    have hs' := toWord_toNat (lt_two_pow_of_fits hw hs)
    refine ⟨_, _, execSigdec_of_sigDecode hl (sigDecode_of_wellFormed h),
      execSigenc_of_fits (s := (s.setSignature _ _).succeed) hl ⟨hr'.trans_lt hr, hs'.trans_lt hs⟩, ?_, ?_⟩
    · rw [State.succeed_siglen, State.setSigString_siglen, sigEncode_length]
      exact BitVec.eq_of_toNat_eq ((siglen_toNat hw).trans h.1.symm)
    · refine (congrArg _ (sigField_setSigString (s := (s.setSignature _ _).succeed) hw _ _)).trans ?_
      rw [State.succeed_sigr, State.succeed_sigs, State.setSignature_sigr, State.setSignature_sigs, hr', hs']
      exact map_hexval_sigEncode_hexdec (sigField_length hw) h.2

end Sys2Proof.Claims
